-- ==== Sys2Proof/Word.lean ====
section
/-! DEFINITION. The two word types of the wire and of the register store (R8: a byte is 8 bits, a word is 16 bits). -/

namespace Sys2Proof

/-- A byte: 8 bits, value 0 to 255 (R8). -/
abbrev Byte := BitVec 8

/-- A word: 16 bits, value 0 to 65535 (R8). -/
abbrev Word := BitVec 16

end Sys2Proof
end

