-- ==== Sys2Proof/Machine/Bytes.lean ====
section
/-! DEFINITION. Byte order, field assembly and bit packing (R8, R39, R56, R61, R62). -/

namespace Sys2Proof.Machine

/-- `hi(w) = w[15:8]` (R8). -/
def hi (w : Word) : Byte := (w >>> 8).setWidth 8

/-- `lo(w) = w[7:0]` (R8). -/
def lo (w : Word) : Byte := w.setWidth 8

/-- `word(h, l) = h * 256 + l` (R8): a two-byte field, high byte first (R56). -/
def word (h l : Byte) : Word := h ++ l

/-- `ceil8(q) = (q + 7) div 8`, the number of bytes that hold `q` bits (R8). -/
def ceil8 (q : Nat) : Nat := (q + 7) / 8

/-- `BUF_CAP`, the capacity of the frame buffer in bytes (R5, R36). -/
abbrev bufCap : Nat := 256

/-- One data byte from at most eight cells, the first cell in bit 0, absent cells as 0 (R61, R131). -/
def packByte (cells : List Bool) : Byte :=
  BitVec.ofNat 8 (cells.foldr (fun b acc => 2 * acc + b.toNat) 0)

/-- The data bytes of a bit read: byte `j` holds the cells `8j` to `8j + 7` (R61, R125). -/
def packBits (cells : List Bool) : List Byte :=
  (List.range (ceil8 cells.length)).map fun j => packByte ((cells.drop (8 * j)).take 8)

/-- The first `q` cells of `WMC` data: cell `k` is bit `k mod 8` of data byte `k div 8` (R61, R139). -/
def unpackBits (q : Nat) (data : List Byte) : List Bool :=
  (List.range q).map fun k => (data.getD (k / 8) 0).getLsbD (k % 8)

/-- The data bytes of a word read: big-endian words (R62, R128). -/
def packWords : List Word → List Byte
  | [] => []
  | w :: ws => hi w :: lo w :: packWords ws

/-- The first `q` words of `WMR` data: word `k` is data bytes `2k` (high) and `2k + 1` (low) (R62, R138). -/
def unpackWords (q : Nat) (data : List Byte) : List Word :=
  (List.range q).map fun k => word (data.getD (2 * k) 0) (data.getD (2 * k + 1) 0)

end Sys2Proof.Machine
end

