-- ==== Sys2Proof/Machine/Crc.lean ====
section
/-! DEFINITION. The CRC engine: CRC-16/MODBUS (R83 to R88). A pure function, no state of its own. -/

namespace Sys2Proof.Machine

/-- `BitStep(c)` (R84): a logical shift right, then XOR 0xA001 if bit 0 was set before the shift. -/
def bitStep (c : Word) : Word :=
  if c.getLsbD 0 then (c >>> 1) ^^^ 0xA001#16 else c >>> 1

/-- One byte of R83: XOR into the low byte of the running value, then eight `BitStep`s. -/
def crcByte (c : Word) (b : Byte) : Word :=
  bitStep (bitStep (bitStep (bitStep (bitStep (bitStep (bitStep (bitStep (c ^^^ b.setWidth 16))))))))

/-- `CRC16(s)` (R83): initial value 0xFFFF, bytes in index order, no final inversion. -/
def crc16 (s : List Byte) : Word := s.foldl crcByte 0xFFFF#16

/-- The CRC field as it goes on the line: low byte first (R63, R87). -/
def crcField (s : List Byte) : List Byte := [lo (crc16 s), hi (crc16 s)]

/-- `FRAME(s)` (R68, R87): `s` with its CRC appended. -/
def sign (s : List Byte) : List Byte := s ++ crcField s

/-- The CRC match of R103: the last two bytes, little-endian, are the CRC of all preceding bytes. -/
def crcMatches (frame : List Byte) : Bool :=
  word (frame.getD (frame.length - 1) 0) (frame.getD (frame.length - 2) 0) == crc16 (frame.take (frame.length - 2))

end Sys2Proof.Machine
end

