-- ==== Sys2Proof/Syntax.lean ====
section
/-! DEFINITION. The instructions: one request frame each, one constructor per row of spec/opcode_table.json (R53, R69). -/

namespace Sys2Proof

/-- The eight functions of R53, by the spec's mnemonics. -/
inductive Fn where
  | rc | rdi | rhr | rir | wsc | wsr | wmc | wmr
  deriving DecidableEq, Repr

/-- What stands between the function code and the CRC of a request of format Q8 (R54). -/
inductive Q8 where
  /-- The frame has the 8 bytes R57 requires: two 16-bit fields, high byte first (R54, R56). -/
  | fit (field1 field2 : Word)
  /-- The frame has another length: the bare payload, bytes 2 to `len - 3` (R57; log 15). -/
  | misfit (payload : List Byte)
  deriving DecidableEq, Repr

/-- What stands between the function code and the CRC of a request of format QM (R55). -/
inductive QM where
  /-- The frame has the `9 + bc` bytes R57 requires: start address, quantity, and the `bc` data bytes. The declared
  byte count `bc` is then the number of data bytes, and is not stored a second time. -/
  | fit (start qty : Word) (data : List Byte)
  /-- The frame is shorter than 9 bytes or its length is not `9 + bc`: the bare payload (R57; log 15). -/
  | misfit (payload : List Byte)
  deriving DecidableEq, Repr

/-- A request. `id` is the address byte, frame index 0 (R50, R52). -/
inductive Instr where
  /-- `RC`, Read Coils, 0x01 (R126). -/
  | rc (id : Byte) (body : Q8)
  /-- `RDI`, Read Discrete Inputs, 0x02 (R127). -/
  | rdi (id : Byte) (body : Q8)
  /-- `RHR`, Read Holding Registers, 0x03 (R129). -/
  | rhr (id : Byte) (body : Q8)
  /-- `RIR`, Read Input Registers, 0x04 (R130). -/
  | rir (id : Byte) (body : Q8)
  /-- `WSC`, Write Single Coil, 0x05 (R135). -/
  | wsc (id : Byte) (body : Q8)
  /-- `WSR`, Write Single Holding Register, 0x06 (R136). -/
  | wsr (id : Byte) (body : Q8)
  /-- `WMC`, Write Multiple Coils, 0x0F (R137). -/
  | wmc (id : Byte) (body : QM)
  /-- `WMR`, Write Multiple Holding Registers, 0x10 (R138). -/
  | wmr (id : Byte) (body : QM)
  /-- `ILLEGAL`, every other function code (R113). -/
  | illegal (id fc : Byte) (payload : List Byte)
  deriving DecidableEq, Repr

end Sys2Proof
end

