-- ==== Sys2Proof/WellFormed.lean ====
section
/-! DEFINITION. Which instructions are frames the engine can receive: the frame fits the 256-byte buffer (R51), the operand
form is the one its length selects (R57), and an illegal request carries none of the eight codes (R53). -/

namespace Sys2Proof

/-- The most payload bytes a frame can have: 256 less address, function code and CRC (R50, R51). -/
abbrev maxPayload : Nat := 252

/-- A Q8 body is the `fit` form exactly when the payload has 4 bytes (R54, R57). -/
def Q8.wf : Q8 → Bool
  | .fit _ _ => true
  | .misfit p => p.length != 4 && decide (p.length ≤ maxPayload)

/-- A QM body is the `fit` form exactly when the payload has `5 + bc` bytes, `bc` its byte 4 (R55, R57). -/
def QM.wf : QM → Bool
  | .fit _ _ data => decide (data.length + 5 ≤ maxPayload)
  | .misfit p => (decide (p.length < 5) || p.length != 5 + (p.getD 4 0).toNat) && decide (p.length ≤ maxPayload)

/-- The eight function codes of R53. -/
def functionCodes : List Byte := [0x01#8, 0x02#8, 0x03#8, 0x04#8, 0x05#8, 0x06#8, 0x0F#8, 0x10#8]

/-- Well-formedness of a request. -/
def Instr.wf : Instr → Bool
  | .rc _ b | .rdi _ b | .rhr _ b | .rir _ b | .wsc _ b | .wsr _ b => b.wf
  | .wmc _ b | .wmr _ b => b.wf
  | .illegal _ fc p => !functionCodes.contains fc && decide (p.length ≤ maxPayload)

end Sys2Proof
end

