-- ==== Sys2Proof/Decode.lean ====
section
/-! DEFINITION. Decoding a received frame into a request, total on any bytes, and the encoder (R50 to R57, R69). The CRC is
checked by VALIDATE (R103), before DISPATCH decodes; the decoder reads no CRC byte as payload (R112; log 14). -/

namespace Sys2Proof
open Machine (word hi lo sign)

/-- Why a byte sequence is no frame (R51). -/
inductive DecodeError where
  /-- Shorter than 4 bytes: no address, function code and CRC (R51, R101). -/
  | shortFrame
  /-- Longer than the 256 bytes of the frame buffer (R51). -/
  | longFrame
  deriving DecidableEq, Repr

/-- One row of spec/opcode_table.json: `match` and `mask` over the function-code byte (R69). -/
structure TableRow where
  fn : Fn
  pattern : Byte
  mask : Byte
  deriving DecidableEq, Repr

/-- The eight rows of the opcode table; its default row, ILLEGAL, is the absence of a match (R53, R69). -/
def opcodeTable : List TableRow :=
  [⟨.rc, 0x01#8, 0xFF#8⟩, ⟨.rdi, 0x02#8, 0xFF#8⟩, ⟨.rhr, 0x03#8, 0xFF#8⟩, ⟨.rir, 0x04#8, 0xFF#8⟩,
   ⟨.wsc, 0x05#8, 0xFF#8⟩, ⟨.wsr, 0x06#8, 0xFF#8⟩, ⟨.wmc, 0x0F#8, 0xFF#8⟩, ⟨.wmr, 0x10#8, 0xFF#8⟩]

/-- The row whose `(byte AND mask) = match`, else none (R69). -/
def functionOf (fc : Byte) : Option Fn :=
  (opcodeTable.find? fun r => fc &&& r.mask == r.pattern).map TableRow.fn

/-- The function code of a function (R53), for latching and for encoding. -/
def Fn.code : Fn → Byte
  | .rc => 0x01#8 | .rdi => 0x02#8 | .rhr => 0x03#8 | .rir => 0x04#8
  | .wsc => 0x05#8 | .wsr => 0x06#8 | .wmc => 0x0F#8 | .wmr => 0x10#8

/-- The operand form of a Q8 request from its payload (R54, R57). -/
def decodeQ8 : List Byte → Q8
  | [a, b, c, d] => .fit (word a b) (word c d)
  | p => .misfit p

/-- The operand form of a QM request from its payload: `fit` when `len = 9 + bc` (R55, R57). -/
def decodeQM : List Byte → QM
  | a :: b :: c :: d :: bc :: data =>
    if data.length = bc.toNat then .fit (word a b) (word c d) data
    else .misfit (a :: b :: c :: d :: bc :: data)
  | p => .misfit p

/-- The request of address byte `id`, function code `fc` and the payload between them and the CRC. -/
def decodeBody (id fc : Byte) (payload : List Byte) : Instr :=
  match functionOf fc with
  | some .rc => .rc id (decodeQ8 payload)
  | some .rdi => .rdi id (decodeQ8 payload)
  | some .rhr => .rhr id (decodeQ8 payload)
  | some .rir => .rir id (decodeQ8 payload)
  | some .wsc => .wsc id (decodeQ8 payload)
  | some .wsr => .wsr id (decodeQ8 payload)
  | some .wmc => .wmc id (decodeQM payload)
  | some .wmr => .wmr id (decodeQM payload)
  | none => .illegal id fc payload

/-- Decode a frame (R50): byte 0 the address, byte 1 the function code, the payload up to the two CRC bytes. -/
def decode (frame : List Byte) : Except DecodeError Instr :=
  if frame.length < 4 then .error .shortFrame
  else if Machine.bufCap < frame.length then .error .longFrame
  else .ok (decodeBody (frame.getD 0 0) (frame.getD 1 0) ((frame.take (frame.length - 2)).drop 2))

/-- The payload bytes of a Q8 body (R54). -/
def encodeQ8 : Q8 → List Byte
  | .fit f1 f2 => [hi f1, lo f1, hi f2, lo f2]
  | .misfit p => p

/-- The payload bytes of a QM body: start, quantity, byte count, data (R55). -/
def encodeQM : QM → List Byte
  | .fit s q data => hi s :: lo s :: hi q :: lo q :: BitVec.ofNat 8 data.length :: data
  | .misfit p => p

/-- A request's frame before its CRC (R50, R67). -/
def encodeUnsigned : Instr → List Byte
  | .rc id b => id :: Fn.rc.code :: encodeQ8 b
  | .rdi id b => id :: Fn.rdi.code :: encodeQ8 b
  | .rhr id b => id :: Fn.rhr.code :: encodeQ8 b
  | .rir id b => id :: Fn.rir.code :: encodeQ8 b
  | .wsc id b => id :: Fn.wsc.code :: encodeQ8 b
  | .wsr id b => id :: Fn.wsr.code :: encodeQ8 b
  | .wmc id b => id :: Fn.wmc.code :: encodeQM b
  | .wmr id b => id :: Fn.wmr.code :: encodeQM b
  | .illegal id fc p => id :: fc :: p

/-- A request's frame as it goes on the line (R50, R63, R68). -/
def encode (i : Instr) : List Byte := sign (encodeUnsigned i)

/-- Byte `k` of an opcode-table word of `nbits` bits: the table's bit 0 is bit 0 of the function-code byte, frame index 1,
so its byte `k` is frame byte `k + 1`; every byte above `nbits` is 0. -/
def tableByte (nbits w k : Nat) : Byte :=
  if k < nbits / 8 then BitVec.ofNat 8 (w >>> (8 * k)) else 0

/-- The frame an opcode-table word stands for. The table numbers no bit of the address byte: it is 0, the broadcast address,
the one address every engine accepts (R52). A Q8 request gets its four field bytes, a QM request the data bytes its byte count
declares (as many as the buffer holds), an illegal one the bytes the word has; then the CRC (R63; log 19). -/
def tableFrame (nbits w : Nat) : List Byte :=
  let count : Nat :=
    match functionOf (tableByte nbits w 0) with
    | some .wmc | some .wmr =>
      if 247 < (tableByte nbits w 5).toNat then maxPayload else (tableByte nbits w 5).toNat + 5
    | some _ => 4
    | none => min maxPayload (nbits / 8 - 1)
  sign (0#8 :: tableByte nbits w 0 :: (List.range count).map fun k => tableByte nbits w (k + 1))

/-- The instruction the decoder reads from an opcode-table word. -/
def decodeTableWord (nbits w : Nat) : Option Instr :=
  match decode (tableFrame nbits w) with
  | .ok i => some i
  | .error _ => none

end Sys2Proof
end

