-- ==== Sys2Proof/Config.lean ====
section
/-! DEFINITION. What an implementation fixes: the OPEN parameters of R5, and the one free value of the model. -/

namespace Sys2Proof.Config

/-- The parameters R5 marks OPEN, "an argument of the model", each with its default (D28).
State carries them so that the step is parametric in them; no step writes them (log 7). -/
structure Params where
  /-- `STEP_LATENCY`, microseconds between a guard becoming true and the engine's step (R5, R7, D1). -/
  stepLatency : Nat := 0
  /-- `RXQ_DEPTH`, the depth of the transport's receive queue; `none` is unbounded (R5, R202, D6). -/
  rxqDepth : Option Nat := none
  /-- `HAS_TXEN`, whether a transmit-enable line is present (R5, R156, D21). -/
  hasTxen : Bool := true
  /-- `TIME_W`, the width of the time counter; `none` is unbounded (R5, R203, D2). -/
  timeW : Option Nat := none
  deriving DecidableEq, Repr

/-- FREE VALUE: what `station_id` holds after an INIT whose address is out of range. R160: "`station_id` becomes
unspecified"; U9: any value. It is applied to the counter `State.free`, and it has no body (log 10). -/
opaque freeStationId : Nat → Byte

end Sys2Proof.Config
end

