-- ==== Sys2Proof/Machine/State.lean ====
section
/-! DEFINITION. The state of the machine (R11 to R27), as plain data; the reasons a step can stop; the state after reset. -/

namespace Sys2Proof.Machine

/-- `phase`, the engine's control register: nine values (R12, D7). -/
inductive Phase where
  | unconf | drain | idle | recv | quiet | validate | dispatch | emit | flush
  deriving DecidableEq, Repr

/-- The engine's step rules, one for each guarded step of R93 to R105, R110, R147 and R151. -/
inductive Rule where
  /-- R93 (a): discard a byte. -/
  | drainDiscard
  /-- R93 (b): the line has been quiet for `frame_timeout`. -/
  | drainQuiet
  /-- R94: a byte is waiting. -/
  | idleStart
  /-- R95: the buffer is full. -/
  | recvFull
  /-- R96: no byte for longer than `char_timeout`. -/
  | recvExpire
  /-- R97: append a byte. -/
  | recvByte
  /-- R99: the quiet period has ended. -/
  | quietEnd
  /-- R100 to R105: accept or reject the frame. -/
  | validate
  /-- R110: decode, validate, access, build the response. -/
  | dispatch
  /-- R147: append the CRC and hand the response over. -/
  | emit
  /-- R151, R152: transmission has completed. -/
  | flushDone
  deriving DecidableEq, Repr

/-- The four regions of the register store (R30). -/
inductive Space where
  | coils | di | hr | ir
  deriving DecidableEq, Repr

/-- The parity operand of INIT (R75, R159). -/
inductive Parity where
  | none | even | odd
  deriving DecidableEq, Repr

/-- The exception codes of R120. Code 4 is reserved: the type has it, no transition produces it (R175, U10). -/
inductive ExcCode where
  /-- 1: illegal function, or unconfigured register region (R172). -/
  | illegalFunction
  /-- 2: illegal data address (R173). -/
  | illegalAddress
  /-- 3: illegal data value (R174). -/
  | illegalValue
  /-- 4: device failure, reserved (R175). -/
  | deviceFailure
  deriving DecidableEq, Repr

/-- A sparse memory: (index, cell) pairs in one canonical form, indexes strictly rising. An unlisted index has no
value (log 2, log 3). -/
abbrev Memory (α : Type) := List (Nat × α)

/-- A host operation (R159 to R169). -/
inductive HostOp where
  /-- `INIT(id, baud, parity, stop2)` (R159). -/
  | init (id : Byte) (baud : BitVec 32) (parity : Parity) (stop2 : Bool)
  /-- `CFG_COILS(length)`, with the array the host binds to the port (R162; log 11). -/
  | cfgCoils (length : Word) (cells : List Bool)
  /-- `CFG_DI(length)`, with the array bound (R163). -/
  | cfgDi (length : Word) (cells : List Bool)
  /-- `CFG_HR(length)`, with the array bound (R164). -/
  | cfgHr (length : Word) (cells : List Word)
  /-- `CFG_IR(length)`, with the array bound (R165). -/
  | cfgIr (length : Word) (cells : List Word)
  /-- The host writes cell `a` of its coil array (R169). -/
  | writeCoil (a : Word) (v : Bool)
  /-- The host writes cell `a` of its discrete-input array (R169). -/
  | writeDi (a : Word) (v : Bool)
  /-- The host writes cell `a` of its holding-register array (R169). -/
  | writeHr (a : Word) (v : Word)
  /-- The host writes cell `a` of its input-register array (R169). -/
  | writeIr (a : Word) (v : Word)
  /-- The host reads cell `a` of one of its arrays: an action with no effect (R169; log 12). -/
  | readCell (sp : Space) (a : Word)
  deriving DecidableEq, Repr

/-- What an agent does next (R6, R7; log 5). -/
inductive Action where
  /-- The engine takes its enabled step, if there is one. -/
  | engine
  /-- The clock: `n` microseconds pass. It waits while an engine step is due (R7). -/
  | wait (n : Nat)
  /-- The line: a byte has been completely received (R37). -/
  | receive (b : Byte)
  /-- The line: the last bit of the transmission has left, `tx_busy` clears (R38). -/
  | txDone
  /-- The host: one operation. -/
  | host (op : HostOp)
  /-- The reset input is asserted (R190). -/
  | reset
  deriving DecidableEq, Repr

/-- A region descriptor: `<r>_cfg` and `<r>_len` (R16). -/
structure Descriptor where
  cfg : Bool
  len : Word
  deriving DecidableEq, Repr

/-- The configuration registers (R14, R15, R16). -/
structure ConfRegs where
  stationId : Byte
  idAssigned : Bool
  charTimeout : BitVec 32
  frameTimeout : BitVec 32
  coils : Descriptor
  di : Descriptor
  hr : Descriptor
  ir : Descriptor
  deriving DecidableEq, Repr

/-- The request latches (R19). -/
structure ReqRegs where
  id : Byte
  fc : Byte
  start : Word
  qty : Word
  deriving DecidableEq, Repr

/-- The result registers and the one-step event `res_valid` (R22). -/
structure ResRegs where
  fc : Byte
  exc : BitVec 3
  start : Word
  qty : Word
  valid : Bool
  deriving DecidableEq, Repr

/-- The contents of the four regions, owned by the host (R30 to R34). -/
structure Store where
  coils : Memory Bool
  di : Memory Bool
  hr : Memory Word
  ir : Memory Word
  deriving DecidableEq, Repr

/-- The machine: R11's complete list, R24's state of the other agents, the OPEN parameters, and the model's own fields
`script`, `waited` and `free`. -/
structure State where
  /-- The OPEN parameters of R5 (log 7). -/
  par : Config.Params
  /-- `phase` (R12). -/
  phase : Phase
  /-- `len`, the frame-buffer fill index, 0 to 256 (R13). -/
  len : BitVec 9
  /-- The configuration registers (R14 to R16). -/
  conf : ConfRegs
  /-- `t_mark`, the instant the timer was last restarted (R18). -/
  tMark : Nat
  /-- The request latches (R19). -/
  req : ReqRegs
  /-- `quiet_ok` (R20). -/
  quietOk : Bool
  /-- `exc` (R20). -/
  exc : BitVec 3
  /-- `resp_len`, the response length without its CRC (R21). -/
  respLen : BitVec 9
  /-- `buf[0..256)`, the frame buffer (R17, R36). -/
  buf : List Host.Cell
  /-- `tx_en` (R23). -/
  txEn : Bool
  /-- The result registers (R22). -/
  res : ResRegs
  /-- The register-store regions (R30). -/
  store : Store
  /-- `rxq`, the receive queue, oldest byte first (R24, R37). -/
  rxq : List Byte
  /-- The transmit stream, oldest byte first (R30, R38). -/
  tx : List Byte
  /-- `tx_busy` (R24, R38). -/
  txBusy : Bool
  /-- `now`, microseconds (R24). -/
  now : Nat
  /-- MODEL: the pending actions of the agents, oldest first (log 5). -/
  script : List Action
  /-- MODEL: microseconds the enabled engine step has been waiting (R7; log 6). -/
  waited : Nat
  /-- MODEL: the counter free values are drawn from (log 10). -/
  free : Nat
  deriving DecidableEq, Repr

/-- Why the machine stops. Every one is safe: the hardware goes on, the model does not. -/
inductive Fault where
  /-- Raised by a region access to a cell the host did not provide, at an index below the configured length: U4, "Treatment:
  fault in the model". Safe (log 3). -/
  | cellAbsent
  /-- Raised by a read of a frame-buffer byte nothing has written: R26, "a read before a write is a fault of the model, not a
  zero". Safe; no reachable state shows it (log 2). -/
  | bufUnwritten
  /-- Raised by a frame-buffer access at index 256 or above: R36, the buffer is indexed 0 to 255. Safe; no reachable state
  shows it (log 17). -/
  | bufIndex
  /-- Raised by DISPATCH when `buf[0..len)` is no frame (`len` below 4): R111, "an accepted frame has `len >= 4`". Safe; no
  reachable state shows it (log 17). -/
  | noFrame
  deriving DecidableEq, Repr

/-- Why the machine refuses an instruction. -/
inductive Refusal where
  /-- Raised by exec for an instruction that has no meaning yet. Safe. No arm raises it. -/
  | notModelled (mnemonic : String)
  deriving DecidableEq, Repr

/-- An unconfigured region (R26). -/
def Descriptor.reset : Descriptor := { cfg := false, len := 0#16 }

/-- The configuration registers after reset (R26). `station_id` and the timeouts are unspecified there: zero here, DESIGN
CHOICE, unsafe (log 1). -/
def ConfRegs.reset : ConfRegs :=
  { stationId := 0#8, idAssigned := false, charTimeout := 0#32, frameTimeout := 0#32,
    coils := .reset, di := .reset, hr := .reset, ir := .reset }

/-- The request latches after reset: unspecified in R26, zero here, DESIGN CHOICE, unsafe (log 1). -/
def ReqRegs.reset : ReqRegs := { id := 0#8, fc := 0#8, start := 0#16, qty := 0#16 }

/-- The result registers after reset: all 0 and no event (R26). -/
def ResRegs.reset : ResRegs := { fc := 0#8, exc := 0#3, start := 0#16, qty := 0#16, valid := false }

/-- The machine right after reset (R26, R191). `t_mark` and `quiet_ok` are unspecified there: zero here, DESIGN CHOICE, unsafe
(log 1). `buf` lists nothing (log 2). What R26 leaves to the other agents (regions, queues, `tx_busy`, `now`) starts empty, idle
and at 0, DESIGN CHOICE, unsafe (log 4). -/
def State.reset : State :=
  { par := {}, phase := .unconf, len := 0#9, conf := .reset, tMark := 0, req := .reset, quietOk := false, exc := 0#3,
    respLen := 0#9, buf := [], txEn := false, res := .reset, store := { coils := [], di := [], hr := [], ir := [] },
    rxq := [], tx := [], txBusy := false, now := 0, script := [], waited := 0, free := 0 }

end Sys2Proof.Machine
end

