-- ==== Sys2Proof/Machine/Operands.lean ====
section
/-! DEFINITION. Operand forms: the payload bytes of a request, its address, quantity, byte count, value and data (R54 to R57,
R112), and the per-function parameters of R114. -/

namespace Sys2Proof
open Machine (word)

/-- `pb(i)` (R112): payload byte at frame index `i`, 0 where the frame has none; the payload starts at index 2. -/
def pb (payload : List Byte) (i : Nat) : Byte := payload.getD (i - 2) 0

/-- Field 1: the start or cell address (R54, R112). -/
def Q8.start : Q8 → Word
  | .fit f1 _ => f1
  | .misfit p => word (pb p 2) (pb p 3)

/-- Field 2: the quantity or the value (R54, R112). -/
def Q8.field2 : Q8 → Word
  | .fit _ f2 => f2
  | .misfit p => word (pb p 4) (pb p 5)

/-- `len`, the length of the frame (R57). -/
def Q8.len : Q8 → Nat
  | .fit _ _ => 8
  | .misfit p => p.length + 4

/-- The start address (R55, R112). -/
def QM.start : QM → Word
  | .fit s _ _ => s
  | .misfit p => word (pb p 2) (pb p 3)

/-- The quantity (R55, R112). -/
def QM.qty : QM → Word
  | .fit _ q _ => q
  | .misfit p => word (pb p 4) (pb p 5)

/-- The declared byte count `bc = pb(6)` (R55, R117). -/
def QM.bc : QM → Byte
  | .fit _ _ data => BitVec.ofNat 8 data.length
  | .misfit p => pb p 6

/-- The data bytes, from frame index 7 (R55). -/
def QM.data : QM → List Byte
  | .fit _ _ data => data
  | .misfit p => p.drop 5

/-- `len`, the length of the frame (R57). -/
def QM.len : QM → Nat
  | .fit _ _ data => data.length + 9
  | .misfit p => p.length + 4

namespace Machine

/-- `region` of R114. -/
def fnRegion : Fn → Space
  | .rc | .wsc | .wmc => .coils
  | .rdi => .di
  | .rhr | .wsr | .wmr => .hr
  | .rir => .ir

/-- `qmax` of R114, the largest legal quantity. -/
def fnQmax : Fn → Nat
  | .rc | .rdi => 2000
  | .rhr | .rir => 125
  | .wsc | .wsr => 1
  | .wmc => 1968
  | .wmr => 123

/-- The `bc rule` of R114. -/
def fnByteCountOk (f : Fn) (qty : Word) (bc : Byte) : Bool :=
  match f with
  | .wmc => bc.toNat == ceil8 qty.toNat
  | .wmr => bc.toNat == 2 * qty.toNat
  | _ => true

/-- The `len rule` of R114 (R57). -/
def fnLengthOk (f : Fn) (len : Nat) (bc : Byte) : Bool :=
  match f with
  | .wmc | .wmr => len == 9 + bc.toNat
  | _ => len == 8

/-- The other value rule of R114: a coil value is 0x0000 or 0xFF00 (R65, R135). -/
def fnValueOk (f : Fn) (value : Word) : Bool :=
  match f with
  | .wsc => value == 0x0000#16 || value == 0xFF00#16
  | _ => true

end Machine

end Sys2Proof
end

