-- ==== Sys2Proof/Machine/Ops.lean ====
section
/-! DEFINITION. The named operations over memory and registers: memory read and write, the transport (R37, R38), the timer
(R18), latching (R111, R112), raising an exception (R178) and what every request ends with (R121, R124, R182), `Outcome` (R166). -/

namespace Sys2Proof.Machine

/-! ### Sparse memory -/

/-- The cell at an index, if it has a value. -/
def Memory.read {α : Type} : Memory α → Nat → Option α
  | [], _ => none
  | (k, v) :: m, a => if k = a then some v else Memory.read m a

/-- Replace the cell at an index, keeping the canonical form. -/
def Memory.write {α : Type} : Memory α → Nat → α → Memory α
  | [], a, v => [(a, v)]
  | (k, w) :: m, a, v =>
    if k < a then (k, w) :: Memory.write m a v
    else if k = a then (a, v) :: m
    else (a, v) :: (k, w) :: m

/-- The `n` cells from index `a` up, in ascending order, if all have a value (R41). -/
def Memory.readN {α : Type} (m : Memory α) : Nat → Nat → Option (List α)
  | _, 0 => some []
  | a, n + 1 =>
    match Memory.read m a, Memory.readN m (a + 1) n with
    | some v, some vs => some (v :: vs)
    | _, _ => none

/-- Write cells from index `a` up, in ascending order (R41). -/
def Memory.writeN {α : Type} (m : Memory α) : Nat → List α → Memory α
  | _, [] => m
  | a, v :: vs => Memory.writeN (Memory.write m a v) (a + 1) vs

/-- Write existing cells from index `a` up, in ascending order; none if one of them is absent (R41, U4). -/
def Memory.storeN {α : Type} (m : Memory α) : Nat → List α → Option (Memory α)
  | _, [] => some m
  | a, v :: vs =>
    match Memory.read m a with
    | some _ => Memory.storeN (Memory.write m a v) (a + 1) vs
    | none => none

/-- A memory holding the cells of an array, cell 0 first (R162). -/
def Memory.ofArray {α : Type} (cells : List α) : Memory α := Memory.writeN [] 0 cells

/-- The canonical form: indexes strictly rising. (No entry can equal what an unlisted index reads as: it has no value.) -/
abbrev Memory.wf {α : Type} (m : Memory α) : Prop := (m.map Prod.fst).Pairwise (· < ·)

/-- Every memory of the machine is in canonical form. -/
abbrev State.memWf (s : State) : Prop :=
  Memory.wf s.buf ∧ Memory.wf s.store.coils ∧ Memory.wf s.store.di ∧ Memory.wf s.store.hr ∧ Memory.wf s.store.ir

/-! ### Outcomes -/

/-- The outcome of one step of this machine. -/
abbrev Result := Host.Outcome State Fault Refusal

/-- Apply a function to the next state, if there is one. -/
def mapNext (f : State → State) : Result → Result
  | .next s => .next (f s)
  | .fault r => .fault r
  | .refused r => .refused r

/-! ### Regions -/

/-- The descriptor of a region (R16). -/
def descriptor (s : State) : Space → Descriptor
  | .coils => s.conf.coils
  | .di => s.conf.di
  | .hr => s.conf.hr
  | .ir => s.conf.ir

/-- `<r>_len` (R16). -/
abbrev regionLen (s : State) (sp : Space) : Nat := (descriptor s sp).len.toNat

/-- The region is configured and not empty (R116). -/
def regionPresent (s : State) (sp : Space) : Bool := (descriptor s sp).cfg && decide (0 < regionLen s sp)

/-! ### Frame buffer -/

/-- Write bytes into `buf` from index `a` up (R36). -/
def writeBuf (a : Nat) (bytes : List Byte) (s : State) : State := { s with buf := Memory.writeN s.buf a bytes }

/-- `buf[0..n)`: the bytes, or why they cannot be read (R36, R26). -/
def readBuf (s : State) (n : Nat) : Except Fault (List Byte) :=
  if bufCap < n then .error .bufIndex
  else match Memory.readN s.buf 0 n with
    | some bytes => .ok bytes
    | none => .error .bufUnwritten

/-! ### Transport -/

/-- `bytes_available()` (R37). -/
def bytesAvailable (s : State) : Nat := s.rxq.length

/-- The line appends a received byte; a full queue drops it (R37, R202). -/
def lineAppend (b : Byte) (s : State) : State :=
  match s.par.rxqDepth with
  | some d => if d ≤ s.rxq.length then s else { s with rxq := s.rxq ++ [b] }
  | none => { s with rxq := s.rxq ++ [b] }

/-- `write(s)` (R38): hand the bytes to the transport in order; `tx_busy` is set when there are any (R24). -/
def transmit (bytes : List Byte) (s : State) : State :=
  { s with tx := s.tx ++ bytes, txBusy := s.txBusy || !bytes.isEmpty }

/-- The line reports that the last bit has left (R38). -/
def lineDone (s : State) : State := { s with txBusy := false }

/-- What is driven on the transmit-enable line: nothing when there is no line (R23, R156). -/
def txEnLine (s : State) : Option Bool := if s.par.hasTxen then some s.txEn else none

/-! ### Timer -/

/-- A time in a counter of `TIME_W` bits (R18, R203). -/
def wrapTime (p : Config.Params) (t : Nat) : Nat :=
  match p.timeW with
  | some w => t % 2 ^ w
  | none => t

/-- `elapsed = now - t_mark` (R8), modulo `2^TIME_W` in a counter of that width (R18, R203; log 8). -/
def elapsed (s : State) : Nat :=
  match s.par.timeW with
  | some w => (s.now + (2 ^ w - s.tMark % 2 ^ w)) % 2 ^ w
  | none => s.now - s.tMark

/-- One microsecond passes (R186). -/
def advance (s : State) : State := { s with now := wrapTime s.par (s.now + 1) }

/-! ### Result port -/

/-- `Outcome(fc, e, start, qty)` (R166). -/
def outcome (fc : Byte) (e : BitVec 3) (start qty : Word) (s : State) : State :=
  { s with res := { fc := fc, exc := e, start := start, qty := qty, valid := true } }

/-- `res_valid` is a one-step event: it is over when the next step begins (R22; log 13). -/
def clearEvent (s : State) : State := { s with res := { s.res with valid := false } }

/-! ### Exceptions -/

/-- The number of an exception code (R120). -/
def ExcCode.code : ExcCode → BitVec 3
  | .illegalFunction => 1#3
  | .illegalAddress => 2#3
  | .illegalValue => 3#3
  | .deviceFailure => 4#3

/-- Latch the header and the decoded fields (R111, R112), before any response byte is written (R48). -/
def latch (id fc : Byte) (start qty : Word) (s : State) : State :=
  { s with req := { id := id, fc := fc, start := start, qty := qty } }

/-- `raise Exception(c)` (R178): `exc <- c`; `buf[1] <- req_fc OR 0x80`; `buf[2] <- c`; `resp_len <- 3`; `buf[0]` keeps the
address byte; no region is accessed. Nothing is saved and no mode changes: the exception response is the whole handling. -/
def raiseException (c : ExcCode) (s : State) : State :=
  { writeBuf 1 [s.req.fc ||| 0x80#8, c.code.setWidth 8] s with exc := c.code, respLen := 3#9 }

/-- How every request leaves `DISPATCH`, after a normal response and after an exception alike: report (R121), then `IDLE` for a
broadcast request and `EMIT` for any other (R124, R178). This is also the return from an exception: "Nothing is restored because
nothing was saved" (R182). -/
def concludeDispatch (s : State) : State :=
  { outcome s.req.fc s.exc s.req.start s.req.qty s with phase := if s.req.id = 0#8 then .idle else .emit }

end Sys2Proof.Machine
end

