-- ==== Sys2Proof/Machine/Flags.lean ====
section
/-! DEFINITION. The two flags of R20 and the predicates that decide them: `quiet_ok` (R99), the acceptance of a frame (R100), and
the exception a request earns, which becomes `exc` (R115 to R118, R120). There are no arithmetic condition codes. -/

namespace Sys2Proof.Machine

/-- `quiet_ok` as QUIET latches it: no byte is waiting (R99). -/
def quietFlag (s : State) : Bool := bytesAvailable s == 0

/-- The address match of R102: broadcast, or the assigned station address. -/
def addressMatches (s : State) (addr : Byte) : Bool :=
  addr == 0#8 || (s.conf.idAssigned && addr == s.conf.stationId)

/-- The conditions of R100 that read the frame: address (R102) and CRC (R103). -/
def frameMatches (s : State) (frame : List Byte) : Bool :=
  addressMatches s (frame.getD 0 0) && crcMatches frame

/-- `shape_ok` (R117): quantity, byte count, length and value, for a function of R114. -/
def shapeOk (f : Fn) (qty : Word) (bc : Byte) (len : Nat) (value : Word) : Bool :=
  decide (1 ≤ qty.toNat) && decide (qty.toNat ≤ fnQmax f) && fnByteCountOk f qty bc && fnLengthOk f len bc && fnValueOk f value

/-- `range_ok` (R118): `q <= L and s <= L - q`; the subtraction is formed only when `q <= L`. -/
def rangeOk (start qty : Word) (regionLength : Nat) : Bool :=
  decide (qty.toNat ≤ regionLength) && decide (start.toNat ≤ regionLength - qty.toNat)

/-- The first failing step of the validation order (R115, R179): region, then shape, then range. -/
def firstFailure (present shape range : Bool) : Option ExcCode :=
  if !present then some .illegalFunction
  else if !shape then some .illegalValue
  else if !range then some .illegalAddress
  else none

end Sys2Proof.Machine
end

