-- ==== Sys2Proof/Machine/Acquisition.lean ====
section
/-! DEFINITION. Frame acquisition: the steps of `DRAIN`, `IDLE`, `RECV`, `QUIET` and `VALIDATE` (R91 to R109). The guards are in
Engine.lean. -/

namespace Sys2Proof.Machine

/-- R93 (a): `read_byte()` and discard; the timer restarts. -/
def drainDiscard (s : State) : State :=
  match s.rxq with
  | [] => s
  | _ :: q => { s with rxq := q, tMark := s.now }

/-- R93 (b): `phase <- IDLE`. -/
def drainQuiet (s : State) : State := { s with phase := .idle }

/-- R94: `len <- 0`, `t_mark <- now`, `phase <- RECV`; the byte is not removed. -/
def idleStart (s : State) : State := { s with len := 0#9, tMark := s.now, phase := .recv }

/-- R95: `phase <- QUIET`; nothing else changes. -/
def recvFull (s : State) : State := { s with phase := .quiet }

/-- R96: `phase <- QUIET`; `t_mark` is not changed. -/
def recvExpire (s : State) : State := { s with phase := .quiet }

/-- R97: `buf[len] <- read_byte()`, `len <- len + 1`, `t_mark <- now`. -/
def recvByte (s : State) : State :=
  match s.rxq with
  | [] => s
  | b :: q => { writeBuf s.len.toNat [b] s with rxq := q, len := s.len + 1#9, tMark := s.now }

/-- R99: `quiet_ok <- (bytes_available() = 0)`, `phase <- VALIDATE`. -/
def quietEnd (s : State) : State := { s with quietOk := quietFlag s, phase := .validate }

/-- Rejection (R104): `Outcome(0, 0, 0, 0)`, `phase <- IDLE`, and nothing else. -/
def rejectFrame (s : State) : State := { outcome 0#8 0#3 0#16 0#16 s with phase := .idle }

/-- Acceptance (R105): `phase <- DISPATCH`, and nothing else. -/
def acceptFrame (s : State) : State := { s with phase := .dispatch }

/-- `VALIDATE` (R100): the buffer is read only when `quiet_ok = 1` and `len >= 4` (R100, R101). -/
def validateStep (s : State) : Result :=
  if s.quietOk && decide (4 ≤ s.len.toNat) then
    match readBuf s s.len.toNat with
    | .ok frame => .next (if frameMatches s frame then acceptFrame s else rejectFrame s)
    | .error f => .fault f
  else .next (rejectFrame s)

end Sys2Proof.Machine
end

