-- ==== Sys2Proof/Machine/Requests.lean ====
section
/-! DEFINITION. What the eight functions share (R110, R115 to R119), and the access procedures they use: `ReadBits` (R125),
`ReadWords` (R128), and the writes of R135 to R138. -/

namespace Sys2Proof.Machine

/-- The body of `DISPATCH` for a function of R114 (R110): latch, validate in order, then either raise the first failure or
perform the access with `exc <- 0` (R119); report and choose the next phase. An access to a cell the host did not provide is
U4's fault. -/
def serve (f : Fn) (id : Byte) (start qty : Word) (shape : Bool) (access : State → Option State) (s : State) : Result :=
  let s1 := latch id f.code start qty s
  match firstFailure (regionPresent s1 (fnRegion f)) shape (rangeOk start qty (regionLen s1 (fnRegion f))) with
  | some c => .next (concludeDispatch (raiseException c s1))
  | none =>
    match access { s1 with exc := 0#3 } with
    | some s2 => .next (concludeDispatch s2)
    | none => .fault .cellAbsent

/-- The response of a read (R58): the count byte at index 2 and the data from index 3; `buf[0]` and `buf[1]` stay as
received. -/
def readResponse (data : List Byte) (s : State) : State :=
  { writeBuf 2 (BitVec.ofNat 8 data.length :: data) s with respLen := BitVec.ofNat 9 (3 + data.length) }

/-- The response of a write (R59): the first six request bytes unchanged. -/
def echoResponse (s : State) : State := { s with respLen := 6#9 }

/-- `ReadBits(space)` (R125). -/
def readBits (cells : Memory Bool) (start qty : Word) (s : State) : Option State :=
  (Memory.readN cells start.toNat qty.toNat).map fun bits => readResponse (packBits bits) s

/-- `ReadWords(space)` (R128). -/
def readWords (cells : Memory Word) (start qty : Word) (s : State) : Option State :=
  (Memory.readN cells start.toNat qty.toNat).map fun ws => readResponse (packWords ws) s

/-- `RegionWrite(COILS, start + k, bits[k])`, then the echo (R135, R137). -/
def writeCoils (start : Word) (bits : List Bool) (s : State) : Option State :=
  (Memory.storeN s.store.coils start.toNat bits).map fun m => echoResponse { s with store := { s.store with coils := m } }

/-- `RegionWrite(HR, start + k, words[k])`, then the echo (R136, R138). -/
def writeRegisters (start : Word) (words : List Word) (s : State) : Option State :=
  (Memory.storeN s.store.hr start.toNat words).map fun m => echoResponse { s with store := { s.store with hr := m } }

end Sys2Proof.Machine
end

