-- ==== Sys2Proof/Machine/Illegal.lean ====
section
/-! DEFINITION. Every other function code (R113). -/

namespace Sys2Proof.Machine

/-- `ILLEGAL`, an unrecognised function code: exception 1 "regardless of payload" (R113); the latches hold the code and, for
address and quantity, 0 (R112). -/
def execIllegal (id fc : Byte) (_payload : List Byte) (s : State) : Result :=
  .next (concludeDispatch (raiseException .illegalFunction (latch id fc 0#16 0#16 s)))

end Sys2Proof.Machine
end

