-- ==== Sys2Proof/Machine/Reads.lean ====
section
/-! DEFINITION. The read functions RC, RDI, RHR, RIR (R125 to R133). -/

namespace Sys2Proof.Machine

/-- `RC`, Read Coils (R126): `ReadBits(COILS)`. -/
def execRc (id : Byte) (body : Q8) (s : State) : Result :=
  serve .rc id body.start body.field2 (shapeOk .rc body.field2 0#8 body.len body.field2)
    (readBits s.store.coils body.start body.field2) s

/-- `RDI`, Read Discrete Inputs (R127): `ReadBits(DI)`. -/
def execRdi (id : Byte) (body : Q8) (s : State) : Result :=
  serve .rdi id body.start body.field2 (shapeOk .rdi body.field2 0#8 body.len body.field2)
    (readBits s.store.di body.start body.field2) s

/-- `RHR`, Read Holding Registers (R129): `ReadWords(HR)`. -/
def execRhr (id : Byte) (body : Q8) (s : State) : Result :=
  serve .rhr id body.start body.field2 (shapeOk .rhr body.field2 0#8 body.len body.field2)
    (readWords s.store.hr body.start body.field2) s

/-- `RIR`, Read Input Registers (R130): `ReadWords(IR)`. -/
def execRir (id : Byte) (body : Q8) (s : State) : Result :=
  serve .rir id body.start body.field2 (shapeOk .rir body.field2 0#8 body.len body.field2)
    (readWords s.store.ir body.start body.field2) s

end Sys2Proof.Machine
end

