-- ==== Sys2Proof/Machine/Writes.lean ====
section
/-! DEFINITION. The write functions WSC, WSR, WMC, WMR (R135 to R142). -/

namespace Sys2Proof.Machine

/-- `WSC`, Write Single Coil (R135): quantity 1; the coil becomes `value = 0xFF00`. -/
def execWsc (id : Byte) (body : Q8) (s : State) : Result :=
  serve .wsc id body.start 1#16 (shapeOk .wsc 1#16 0#8 body.len body.field2)
    (writeCoils body.start [body.field2 == 0xFF00#16]) s

/-- `WSR`, Write Single Holding Register (R136): quantity 1; every value is legal. -/
def execWsr (id : Byte) (body : Q8) (s : State) : Result :=
  serve .wsr id body.start 1#16 (shapeOk .wsr 1#16 0#8 body.len body.field2)
    (writeRegisters body.start [body.field2]) s

/-- `WMC`, Write Multiple Coils (R137, R139). -/
def execWmc (id : Byte) (body : QM) (s : State) : Result :=
  serve .wmc id body.start body.qty (shapeOk .wmc body.qty body.bc body.len 0#16)
    (writeCoils body.start (unpackBits body.qty.toNat body.data)) s

/-- `WMR`, Write Multiple Holding Registers (R138). -/
def execWmr (id : Byte) (body : QM) (s : State) : Result :=
  serve .wmr id body.start body.qty (shapeOk .wmr body.qty body.bc body.len 0#16)
    (writeRegisters body.start (unpackWords body.qty.toNat body.data)) s

end Sys2Proof.Machine
end

