-- ==== Sys2Proof/Machine/Dispatch.lean ====
section
/-! DEFINITION. The dispatch of a request to its meaning (R111, R114): one arm per row of spec/opcode_table.json. -/

namespace Sys2Proof.Machine

/-- What a request does in the `DISPATCH` step (R110). -/
def exec (i : Instr) (s : State) : Host.Outcome State Fault Refusal :=
  match i with
  | .rc id body => Sys2Proof.Machine.execRc id body s
  | .rdi id body => Sys2Proof.Machine.execRdi id body s
  | .rhr id body => Sys2Proof.Machine.execRhr id body s
  | .rir id body => Sys2Proof.Machine.execRir id body s
  | .wsc id body => Sys2Proof.Machine.execWsc id body s
  | .wsr id body => Sys2Proof.Machine.execWsr id body s
  | .wmc id body => Sys2Proof.Machine.execWmc id body s
  | .wmr id body => Sys2Proof.Machine.execWmr id body s
  | .illegal id fc payload => Sys2Proof.Machine.execIllegal id fc payload s

end Sys2Proof.Machine
end

