-- ==== Sys2Proof/Machine/Emission.lean ====
section
/-! DEFINITION. Response emission and the transmit-enable output: the steps of `EMIT` and `FLUSH` (R147 to R158). -/

namespace Sys2Proof.Machine

/-- `EMIT` (R147): append the CRC of `buf[0..resp_len)` (R148), `tx_en <- 1` (R149), `write(buf[0..resp_len + 2))` (R150),
`phase <- FLUSH`. -/
def emitStep (s : State) : Result :=
  if bufCap < s.respLen.toNat + 2 then .fault .bufIndex
  else match readBuf s s.respLen.toNat with
    | .ok body =>
      .next { transmit (sign body) (writeBuf s.respLen.toNat (crcField body) s) with txEn := true, phase := .flush }
    | .error f => .fault f

/-- `FLUSH` (R151, R152): `tx_en <- 0`, `t_mark <- now`, `phase <- DRAIN`. -/
def flushStep (s : State) : State := { s with txEn := false, tMark := s.now, phase := .drain }

end Sys2Proof.Machine
end

