-- ==== Sys2Proof/Machine/Timing.lean ====
section
/-! DEFINITION. The timing model (R75 to R82): a pure function of the baud rate and the character format, evaluated by INIT. -/

namespace Sys2Proof.Machine

/-- `bits_per_char` (R75, C3): start bit, 8 data bits, parity and stop bits. -/
def bitsPerChar (parity : Parity) (stop2 : Bool) : Nat :=
  match parity, stop2 with
  | .even, true | .odd, true => 12
  | .none, true | .even, false | .odd, false => 11
  | .none, false => 10

/-- `char_timeout` in microseconds (R76, R77): multiply, then truncating division, then the addition (R78). -/
def charTimeoutOf (baud bpc : Nat) : Nat :=
  if baud ≤ 19200 then bpc * 2500000 / baud else bpc * 1000000 / baud + 750

/-- `frame_timeout` in microseconds (R76, R77). -/
def frameTimeoutOf (baud bpc : Nat) : Nat :=
  if baud ≤ 19200 then bpc * 4500000 / baud else bpc * 1000000 / baud + 1750

end Sys2Proof.Machine
end

