-- ==== Sys2Proof/Machine/HostOps.lean ====
section
/-! DEFINITION. Host operations (R159 to R169) and the reset input (R190). An operation whose precondition fails is refused:
"state unchanged, `phase` unchanged" (U1, U2), and the run goes on (log 9). -/

namespace Sys2Proof.Machine

/-- The phases in which INIT and CFG are accepted (R167). -/
def hostReady (s : State) : Bool := s.phase == .unconf || s.phase == .idle

/-- Station address assignment (R160): 1 to 247 is kept; any other value makes the address unassigned and `station_id`
unspecified, which is the free value of log 10. -/
def assignAddress (id : Byte) (s : State) : State :=
  if 1 ≤ id.toNat ∧ id.toNat ≤ 247 then { s with conf := { s.conf with stationId := id, idAssigned := true } }
  else
    { s with conf := { s.conf with stationId := Config.freeStationId s.free, idAssigned := false }, free := s.free + 1 }

/-- The timeout pair as INIT writes it (R76 to R78, R159). -/
def setTimeouts (baud : BitVec 32) (parity : Parity) (stop2 : Bool) (s : State) : State :=
  { s with conf := { s.conf with
      charTimeout := BitVec.ofNat 32 (charTimeoutOf baud.toNat (bitsPerChar parity stop2))
      frameTimeout := BitVec.ofNat 32 (frameTimeoutOf baud.toNat (bitsPerChar parity stop2)) } }

/-- The post-configuration drain (R161): `t_mark <- now`, `phase <- DRAIN`. -/
def startDrain (s : State) : State := { s with tMark := s.now, phase := .drain }

/-- `INIT(id, baud, parity, stop2)` (R159). -/
def hostInit (id : Byte) (baud : BitVec 32) (parity : Parity) (stop2 : Bool) (s : State) : State :=
  if hostReady s && decide (0 < baud.toNat) then startDrain (setTimeouts baud parity stop2 (assignAddress id s)) else s

/-- `CFG_COILS(length)` (R162). -/
def hostCfgCoils (length : Word) (cells : List Bool) (s : State) : State :=
  if hostReady s then
    { s with conf := { s.conf with coils := ⟨true, length⟩ }, store := { s.store with coils := Memory.ofArray cells } }
  else s

/-- `CFG_DI(length)` (R163). -/
def hostCfgDi (length : Word) (cells : List Bool) (s : State) : State :=
  if hostReady s then
    { s with conf := { s.conf with di := ⟨true, length⟩ }, store := { s.store with di := Memory.ofArray cells } }
  else s

/-- `CFG_HR(length)` (R164). -/
def hostCfgHr (length : Word) (cells : List Word) (s : State) : State :=
  if hostReady s then
    { s with conf := { s.conf with hr := ⟨true, length⟩ }, store := { s.store with hr := Memory.ofArray cells } }
  else s

/-- `CFG_IR(length)` (R165). -/
def hostCfgIr (length : Word) (cells : List Word) (s : State) : State :=
  if hostReady s then
    { s with conf := { s.conf with ir := ⟨true, length⟩ }, store := { s.store with ir := Memory.ofArray cells } }
  else s

/-- A host operation. Cell accesses are allowed in every phase (R169, R198). -/
def hostOp (op : HostOp) (s : State) : State :=
  match op with
  | .init id baud parity stop2 => hostInit id baud parity stop2 s
  | .cfgCoils length cells => hostCfgCoils length cells s
  | .cfgDi length cells => hostCfgDi length cells s
  | .cfgHr length cells => hostCfgHr length cells s
  | .cfgIr length cells => hostCfgIr length cells s
  | .writeCoil a v => { s with store := { s.store with coils := Memory.write s.store.coils a.toNat v } }
  | .writeDi a v => { s with store := { s.store with di := Memory.write s.store.di a.toNat v } }
  | .writeHr a v => { s with store := { s.store with hr := Memory.write s.store.hr a.toNat v } }
  | .writeIr a v => { s with store := { s.store with ir := Memory.write s.store.ir a.toNat v } }
  | .readCell _ _ => s

/-- Reset asserted in any phase (R190): the engine's state is that of R191 at once; the transport, the line, the time base and
the host's arrays are not reached. The registers R26 leaves unspecified get State.reset's values (log 23). -/
def engineReset (s : State) : State :=
  { s with phase := .unconf, len := 0#9, conf := .reset, tMark := 0, req := .reset, quietOk := false, exc := 0#3,
           respLen := 0#9, buf := [], txEn := false, res := .reset, waited := 0 }

end Sys2Proof.Machine
end

