-- ==== Sys2Proof/Machine/Engine.lean ====
section
/-! DEFINITION. The engine's step rules with their guards (R12, R93 to R99, R151), the fetch of a request (R105, R111), and the
interleaving of the agents (R6, R7). -/

namespace Sys2Proof.Machine

/-- The step rule whose guard holds, if any: at most one in every phase (R91). In `RECV` the order is capacity, timer, byte
(R98). -/
def enabledRule (s : State) : Option Rule :=
  match s.phase with
  | .unconf => none
  | .drain =>
    if 0 < bytesAvailable s then some .drainDiscard
    else if s.conf.frameTimeout.toNat ≤ elapsed s then some .drainQuiet
    else none
  | .idle => if 0 < bytesAvailable s then some .idleStart else none
  | .recv =>
    if s.len.toNat = bufCap then some .recvFull
    else if bufCap < s.len.toNat then none
    else if s.conf.charTimeout.toNat < elapsed s then some .recvExpire
    else if 0 < bytesAvailable s then some .recvByte
    else none
  | .quiet => if s.conf.frameTimeout.toNat ≤ elapsed s then some .quietEnd else none
  | .validate => some .validate
  | .dispatch => some .dispatch
  | .emit => some .emit
  | .flush => if s.txBusy then none else some .flushDone

/-- The bytes of the request `DISPATCH` decodes: `buf[0..len)` (R105, R110). -/
def fetchFrame (s : State) : Except Fault (List Byte) := readBuf s s.len.toNat

/-- `DISPATCH` (R110): fetch `buf[0..len)`, decode, run the request. -/
def dispatchStep (s : State) : Result :=
  match fetchFrame s with
  | .error f => .fault f
  | .ok frame =>
    match decode frame with
    | .ok i => exec i s
    | .error .shortFrame => .fault .noFrame
    | .error .longFrame => .fault .bufIndex

/-- The effect of a step rule. -/
def fire (r : Rule) (s : State) : Result :=
  match r with
  | .drainDiscard => .next (drainDiscard s)
  | .drainQuiet => .next (drainQuiet s)
  | .idleStart => .next (idleStart s)
  | .recvFull => .next (recvFull s)
  | .recvExpire => .next (recvExpire s)
  | .recvByte => .next (recvByte s)
  | .quietEnd => .next (quietEnd s)
  | .validate => validateStep s
  | .dispatch => dispatchStep s
  | .emit => emitStep s
  | .flushDone => .next (flushStep s)

/-- The engine has stepped: nothing has waited yet (log 6). -/
def rearm (s : State) : State := { s with waited := 0 }

/-- The engine takes its enabled step, if there is one. -/
def engineStep (s : State) : Result :=
  match enabledRule s with
  | some r => mapNext rearm (fire r s)
  | none => .next s

/-- After an action of another agent: if another rule is enabled now, it has not waited yet (log 6). -/
def settle (before after : State) : State :=
  { after with waited := if enabledRule after = enabledRule before then after.waited else 0 }

/-- Whether the clock may advance: no engine step is enabled, or it may still wait, `STEP_LATENCY` microseconds in all (R7). -/
def mayTick (s : State) : Bool := (enabledRule s).isNone || decide (s.waited < s.par.stepLatency)

/-- One microsecond passes. -/
def tick (s : State) : State :=
  settle s { advance s with waited := if (enabledRule s).isSome then s.waited + 1 else 0 }

/-- The first action of the script, taken from it. An empty script lets the engine step and time pass. -/
def agentsAct (s : State) : Result :=
  match s.script with
  | [] => if (enabledRule s).isSome then engineStep s else .next (tick s)
  | .engine :: rest => engineStep { s with script := rest }
  | .wait 0 :: rest => .next { s with script := rest }
  | .wait (n + 1) :: rest => if mayTick s then .next (tick { s with script := .wait n :: rest }) else engineStep s
  | .receive b :: rest => .next (settle s (lineAppend b { s with script := rest }))
  | .txDone :: rest => .next (settle s (lineDone { s with script := rest }))
  | .host op :: rest => .next (settle s (hostOp op { s with script := rest }))
  | .reset :: rest => .next (engineReset { s with script := rest })

/-- One step of the whole machine: the event of the step before is over (R22), then the next agent acts. -/
def agentsStep (s : State) : Result := agentsAct (clearEvent s)

/-- Place a frame where `DISPATCH` fetches its request, and let the engine step next (log 19). -/
def placeFrame (frame : List Byte) (s : State) : State :=
  { writeBuf 0 frame s with phase := .dispatch, len := BitVec.ofNat 9 frame.length, script := .engine :: s.script }

end Sys2Proof.Machine
end

