-- ==== Sys2Proof/Machine/Step.lean ====
section
/-! DEFINITION. The step of the machine, and the placing of an opcode-table word where the next step fetches it. -/

namespace Sys2Proof.Machine

/-- One step: one action of one agent (R6, R7). -/
def step (s : State) : Host.Outcome State Fault Refusal := agentsStep s

/-- `s` with the frame of an opcode-table word in the frame buffer, accepted, and the engine about to take its `DISPATCH`
step (log 19). -/
def State.withFetchWord (s : State) (nbits w : Nat) : State := placeFrame (tableFrame nbits w) s

end Sys2Proof.Machine
end

