-- ==== Sys2Proof/Safety.lean ====
section
/-! DEFINITION. The terms claims are stated in: what a request asks for, read from its syntax alone; what a dispatch leaves
unchanged; the invariant of reachable states; equality of states up to registers no rule reads before writing; the phase graph. -/

namespace Sys2Proof

/-! ### What a request asks for -/

/-- The address byte (R111). -/
def Instr.id : Instr → Byte
  | .rc id _ | .rdi id _ | .rhr id _ | .rir id _ | .wsc id _ | .wsr id _ | .wmc id _ | .wmr id _ | .illegal id _ _ => id

/-- The function-code byte (R53). -/
def Instr.fc : Instr → Byte
  | .rc _ _ => 0x01#8
  | .rdi _ _ => 0x02#8
  | .rhr _ _ => 0x03#8
  | .rir _ _ => 0x04#8
  | .wsc _ _ => 0x05#8
  | .wsr _ _ => 0x06#8
  | .wmc _ _ => 0x0F#8
  | .wmr _ _ => 0x10#8
  | .illegal _ fc _ => fc

/-- The start address as R112 latches it. -/
def Instr.start : Instr → Word
  | .rc _ b | .rdi _ b | .rhr _ b | .rir _ b | .wsc _ b | .wsr _ b => b.start
  | .wmc _ b | .wmr _ b => b.start
  | .illegal _ _ _ => 0#16

/-- The quantity as R112 latches it: 1 for the single writes, 0 for an unrecognised function code. -/
def Instr.qty : Instr → Word
  | .rc _ b | .rdi _ b | .rhr _ b | .rir _ b => b.field2
  | .wsc _ _ | .wsr _ _ => 1#16
  | .wmc _ b | .wmr _ b => b.qty
  | .illegal _ _ _ => 0#16

/-- The region a function accesses (R53); an unrecognised function code has none (R113). -/
def Instr.space? : Instr → Option Machine.Space
  | .rc _ _ | .wsc _ _ | .wmc _ _ => some .coils
  | .rdi _ _ => some .di
  | .rhr _ _ | .wsr _ _ | .wmr _ _ => some .hr
  | .rir _ _ => some .ir
  | .illegal _ _ _ => none

/-- The shape each function's own rule calls legal, that is, earns no exception 3 (R126, R127, R129, R130, R135 to R138). -/
def Instr.legalShape : Instr → Prop
  | .rc _ (.fit _ q) | .rdi _ (.fit _ q) => 1 ≤ q.toNat ∧ q.toNat ≤ 2000
  | .rhr _ (.fit _ q) | .rir _ (.fit _ q) => 1 ≤ q.toNat ∧ q.toNat ≤ 125
  | .wsc _ (.fit _ v) => v = 0x0000#16 ∨ v = 0xFF00#16
  | .wsr _ (.fit _ _) => True
  | .wmc _ (.fit _ q data) => 1 ≤ q.toNat ∧ q.toNat ≤ 1968 ∧ data.length = (q.toNat + 7) / 8
  | .wmr _ (.fit _ q data) => 1 ≤ q.toNat ∧ q.toNat ≤ 123 ∧ data.length = 2 * q.toNat
  | .rc _ (.misfit _) | .rdi _ (.misfit _) | .rhr _ (.misfit _) | .rir _ (.misfit _) | .wsc _ (.misfit _)
  | .wsr _ (.misfit _) | .wmc _ (.misfit _) | .wmr _ (.misfit _) | .illegal _ _ _ => False

/-- The same request with another address byte (R122). -/
def Instr.withId (id : Byte) : Instr → Instr
  | .rc _ b => .rc id b
  | .rdi _ b => .rdi id b
  | .rhr _ b => .rhr id b
  | .rir _ b => .rir id b
  | .wsc _ b => .wsc id b
  | .wsr _ b => .wsr id b
  | .wmc _ b => .wmc id b
  | .wmr _ b => .wmr id b
  | .illegal _ fc p => .illegal id fc p

/-- The request is one of the four reads (R125 to R133). -/
def Instr.isRead : Instr → Bool
  | .rc _ _ | .rdi _ _ | .rhr _ _ | .rir _ _ => true
  | .wsc _ _ | .wsr _ _ | .wmc _ _ | .wmr _ _ | .illegal _ _ _ => false

namespace Machine

/-- The region is configured and has a cell (R116). -/
def Present (s : State) (sp : Space) : Prop := (descriptor s sp).cfg = true ∧ (descriptor s sp).len ≠ 0#16

/-- The cells `start` to `start + qty - 1` lie inside the region (R118). -/
def InRange (s : State) (sp : Space) (start qty : Word) : Prop :=
  start.toNat + qty.toNat ≤ (descriptor s sp).len.toNat

/-- The host provides the cell at an index of a region (U4). -/
def CellProvided (s : State) (sp : Space) (a : Nat) : Prop :=
  match sp with
  | .coils => (Memory.read s.store.coils a).isSome = true
  | .di => (Memory.read s.store.di a).isSome = true
  | .hr => (Memory.read s.store.hr a).isSome = true
  | .ir => (Memory.read s.store.ir a).isSome = true

/-! ### What a dispatch leaves, and what it reports -/

/-- Everything DISPATCH does not write (R110): all but the latches, `exc`, `resp_len`, `buf`, the regions, the result registers
and `phase`. -/
def DispatchFrame (s t : State) : Prop :=
  t.par = s.par ∧ t.len = s.len ∧ t.conf = s.conf ∧ t.tMark = s.tMark ∧ t.quietOk = s.quietOk ∧ t.txEn = s.txEn ∧
  t.rxq = s.rxq ∧ t.tx = s.tx ∧ t.txBusy = s.txBusy ∧ t.now = s.now ∧ t.script = s.script ∧ t.waited = s.waited ∧
  t.free = s.free

/-- The request was latched (R111, R112), earned `e` (R120), was reported (R121), and leaves for `IDLE` or `EMIT` (R124). -/
def Reports (i : Instr) (e : BitVec 3) (t : State) : Prop :=
  t.req = ⟨i.id, i.fc, i.start, i.qty⟩ ∧ t.exc = e ∧ t.res = ⟨i.fc, e, i.start, i.qty, true⟩ ∧
  t.phase = if i.id = 0#8 then .idle else .emit

/-- The exception response of R178: `buf[1]`, `buf[2]` and `resp_len` written, every other byte of `buf` and every region cell
as before, nothing else changed. -/
def RaisedException (i : Instr) (code : BitVec 3) (s t : State) : Prop :=
  Reports i code t ∧ t.respLen = 3#9 ∧
  Memory.read t.buf 1 = some (i.fc ||| 0x80#8) ∧ Memory.read t.buf 2 = some (code.setWidth 8) ∧
  (∀ a, a ≠ 1 → a ≠ 2 → Memory.read t.buf a = Memory.read s.buf a) ∧
  t.store = s.store ∧ DispatchFrame s t

/-! ### The invariant of reachable states -/

/-- The frame or response bytes below `n` have been written. -/
def Written (buf : List Host.Cell) (n : Nat) : Prop := ∀ k, k < n → (Memory.read buf k).isSome = true

/-- The phases in which `buf[0..len)` is the received frame (R13, R36). -/
def Phase.holdsFrame : Phase → Bool
  | .recv | .quiet | .validate | .dispatch => true
  | .unconf | .drain | .idle | .emit | .flush => false

/-- The phases that read the timer (R18). -/
def Phase.readsTimer : Phase → Bool
  | .drain | .recv | .quiet => true
  | .unconf | .idle | .validate | .dispatch | .emit | .flush => false

/-- The invariant every step keeps. -/
structure Inv (s : State) : Prop where
  /-- Every memory is in canonical form. -/
  memWf : s.memWf
  /-- The frame buffer has the indexes 0 to 255 (R36). -/
  bufRange : ∀ a ∈ s.buf.map Prod.fst, a < 256
  /-- `len` never exceeds 256 (R13). -/
  lenLe : s.len.toNat ≤ 256
  /-- An assigned address is in 1 to 247 (R14). -/
  address : s.conf.idAssigned = true → 1 ≤ s.conf.stationId.toNat ∧ s.conf.stationId.toNat ≤ 247
  /-- `char_timeout < frame_timeout` once INIT has run (R15, R79). -/
  timeouts : s.phase ≠ .unconf → s.conf.charTimeout.toNat < s.conf.frameTimeout.toNat
  /-- `exc` and `res_exc` never hold 4 or more (R175). -/
  excLegal : s.exc.toNat ≤ 3 ∧ s.res.exc.toNat ≤ 3
  /-- A region that is not configured has length 0 (R26, D25). -/
  unconfigured : ∀ sp, (descriptor s sp).cfg = false → (descriptor s sp).len = 0#16
  /-- `tx_en` is 1 throughout FLUSH and 0 in every other phase (R157). -/
  txEnable : s.txEn = true ↔ s.phase = .flush
  /-- The bytes of the received frame have been written (R36). -/
  received : s.phase.holdsFrame = true → Written s.buf s.len.toNat
  /-- DISPATCH holds an accepted frame (R100). -/
  accepted : s.phase = .dispatch → s.quietOk = true ∧ 4 ≤ s.len.toNat ∧
    ∃ frame, readBuf s s.len.toNat = .ok frame ∧ frameMatches s frame = true
  /-- EMIT holds a response to a unicast request, of 3 to 253 bytes, addressed as the request was (R147, R124, R119). -/
  response : s.phase = .emit → 3 ≤ s.respLen.toNat ∧ s.respLen.toNat ≤ 253 ∧ Written s.buf s.respLen.toNat ∧
    s.req.id ≠ 0#8 ∧ Memory.read s.buf 0 = some s.req.id
  /-- An enabled step waits no longer than STEP_LATENCY (R7). -/
  latency : s.waited ≤ s.par.stepLatency
  /-- In the phases that read the timer its mark is not in the future (R18, R186). -/
  timeForward : s.phase.readsTimer = true → s.par.timeW = none → s.tMark ≤ s.now

/-! ### States that agree on everything a rule can read -/

/-- Two states that differ at most in what no rule reads before writing it (R27, R36, U8, U9): `station_id` while unassigned,
the timeouts before INIT, `t_mark`, `len`, `quiet_ok`, `resp_len` and the buffer outside the phases and indexes that read them,
the request latches and `exc`. -/
structure SameLive (s t : State) : Prop where
  par : s.par = t.par
  phase : s.phase = t.phase
  assigned : s.conf.idAssigned = t.conf.idAssigned
  station : s.conf.idAssigned = true → s.conf.stationId = t.conf.stationId
  coils : s.conf.coils = t.conf.coils
  di : s.conf.di = t.conf.di
  hr : s.conf.hr = t.conf.hr
  ir : s.conf.ir = t.conf.ir
  timeouts : s.phase ≠ .unconf → s.conf.charTimeout = t.conf.charTimeout ∧ s.conf.frameTimeout = t.conf.frameTimeout
  timer : s.phase = .drain ∨ s.phase = .recv ∨ s.phase = .quiet → s.tMark = t.tMark
  frame : s.phase.holdsFrame = true → s.len = t.len ∧ ∀ k, k < s.len.toNat → Memory.read s.buf k = Memory.read t.buf k
  quiet : s.phase = .validate → s.quietOk = t.quietOk
  response : s.phase = .emit → s.respLen = t.respLen ∧ ∀ k, k < s.respLen.toNat → Memory.read s.buf k = Memory.read t.buf k
  txEn : s.txEn = t.txEn
  res : s.res = t.res
  store : s.store = t.store
  rxq : s.rxq = t.rxq
  tx : s.tx = t.tx
  txBusy : s.txBusy = t.txBusy
  now : s.now = t.now
  script : s.script = t.script
  waited : s.waited = t.waited
  free : s.free = t.free

/-- Outcomes that agree: next states that agree on everything a rule can read, or the same stop. -/
def SameOutcome : Result → Result → Prop
  | .next s, .next t => SameLive s t
  | .fault a, .fault b => a = b
  | .refused a, .refused b => a = b
  | _, _ => False

/-- The same state on an engine with or without a transmit-enable line, `HAS_TXEN` (R5, R156). -/
def withTxEnLine (present : Bool) (s : State) : State := { s with par := { s.par with hasTxen := present } }

/-! ### Control flow and turns -/

/-- R12's control-flow graph: "The transitions, all of them". -/
def phaseEdge : Phase → Phase → Bool
  | .unconf, .drain | .idle, .drain | .drain, .idle | .idle, .recv | .recv, .quiet | .quiet, .validate
  | .validate, .idle | .validate, .dispatch | .dispatch, .idle | .dispatch, .emit | .emit, .flush | .flush, .drain => true
  | _, _ => false

/-- It is the engine's turn, and `rest` is the script after it: the script says so, or it is empty, or the clock must wait
because an enabled step has waited for STEP_LATENCY (R7). -/
def EngineTurn (s : State) (rest : List Action) : Prop :=
  s.script = .engine :: rest ∨ (s.script = [] ∧ rest = []) ∨
  (∃ n tail, s.script = .wait (n + 1) :: tail ∧ s.par.stepLatency ≤ s.waited ∧ rest = s.script)

/-- The state an engine step leaves, given what its rule does: the script is `rest`, nothing has waited, and the `res_valid` of
the step before is over. -/
def afterTurn (s : State) (rest : List Action) : State :=
  { s with script := rest, waited := 0, res := { s.res with valid := false } }

end Machine

end Sys2Proof
end

