-- ==== Sys2Proof/Certificates/Slice0/Obligations.lean ====
section
/-! DEFINITION. The statements for the provers, from the rules of spec/. -/

open Sys2Proof Sys2Proof.Machine

/-! ### Encoding -/

/-- Decoding an encoded request gives it back, for every well-formed request and every operand value (30_encoding.md, R50 to R57). -/
def Obligations.DecodeOfEncodeIsIdentity : Prop :=
  ∀ i : Instr, i.wf = true → decode (encode i) = .ok i

/-- Whatever the decoder reads is well-formed, and a frame with a matching CRC is exactly the encoding of what it decodes to: the
decoder drops no bit (30_encoding.md, R50 to R57, R63). -/
def Obligations.EncodeOfDecodeIsIdentity : Prop :=
  ∀ (frame : List Byte) (i : Instr), decode frame = .ok i →
    i.wf = true ∧ (crcMatches frame = true → encode i = frame)

/-- Every byte sequence of 4 to 256 bytes decodes, to the function its byte 1 selects and to the address in its byte 0; every other
length is rejected by name (30_encoding.md sections 1 and 2). The function-code numbers are the spec's general knowledge (log 18). -/
def Obligations.DecoderSelectsByFunctionCode : Prop :=
  ∀ frame : List Byte,
    (frame.length < 4 → decode frame = .error .shortFrame) ∧
    (256 < frame.length → decode frame = .error .longFrame) ∧
    (4 ≤ frame.length → frame.length ≤ 256 → ∃ i, decode frame = .ok i ∧
      i.id = frame.getD 0 0 ∧ i.fc = frame.getD 1 0 ∧
      (i.space? = none ↔ frame.getD 1 0 ∉ [0x01#8, 0x02#8, 0x03#8, 0x04#8, 0x05#8, 0x06#8, 0x0F#8, 0x10#8]))

/-- The address and quantity DISPATCH latches are the payload bytes of the frame, high byte first; a byte the frame does not have
reads as 0 and the CRC is never read as payload (43_dispatcher.md section 2; D16). -/
def Obligations.LatchedFieldsArePayloadBytes : Prop :=
  ∀ (frame : List Byte) (i : Instr), decode frame = .ok i →
    let payload : Nat → Byte := fun k => if k + 2 < frame.length then frame.getD k 0 else 0
    let field : Nat → Nat := fun k => (payload k).toNat * 256 + (payload (k + 1)).toNat
    (i.space? ≠ none → i.start.toNat = field 2) ∧
    (i.space? = none → i.start = 0#16 ∧ i.qty = 0#16) ∧
    (i.fc = 0x05#8 ∨ i.fc = 0x06#8 → i.qty = 1#16) ∧
    (i.space? ≠ none → i.fc ≠ 0x05#8 → i.fc ≠ 0x06#8 → i.qty.toNat = field 4)

/-- Frames written out from the spec's encodings decode to the requests they stand for (sanity; 95_test_vectors.md 2.4 to 2.6). -/
def Obligations.SpecFramesDecode : Prop :=
  decode [0x01, 0x01, 0x00, 0x05, 0x00, 0x0B, 0x6D, 0xCC] = .ok (.rc 1 (.fit 5 11)) ∧
  decode [0x01, 0x02, 0x00, 0x11, 0x00, 0x03, 0x68, 0x0E] = .ok (.rdi 1 (.fit 17 3)) ∧
  decode [0x01, 0x05, 0x00, 0x02, 0xFF, 0x00, 0x2D, 0xFA] = .ok (.wsc 1 (.fit 2 0xFF00)) ∧
  decode [0x01, 0x10, 0x00, 0x01, 0x00, 0x02, 0x04, 0x00, 0x0A, 0x01, 0x02, 0x92, 0x30] =
    .ok (.wmr 1 (.fit 1 2 [0x00, 0x0A, 0x01, 0x02])) ∧
  decode [0x01, 0x07, 0x41, 0xE2] = .ok (.illegal 1 7 [])

/-! ### CRC engine -/

/-- CRC16: initial value 0xFFFF, and each byte is XORed into the low byte and followed by eight `BitStep`s (R83, R84). -/
def Obligations.CrcFollowsReferenceAlgorithm : Prop :=
  (∀ c : Word, bitStep c = if c.getLsbD 0 = true then (c >>> 1) ^^^ 0xA001#16 else c >>> 1) ∧
  crc16 [] = 0xFFFF#16 ∧
  ∀ (s : List Byte) (b : Byte), crc16 (s ++ [b]) = bitStep^[8] (crc16 s ^^^ b.setWidth 16)

/-- A sequence with its CRC appended, low byte first, has CRC 0 (R88, which the spec marks as derived). -/
def Obligations.CrcOfSignedFrameIsZero : Prop :=
  ∀ s : List Byte, crc16 (s ++ [lo (crc16 s), hi (crc16 s)]) = 0#16

/-- Flipping any single bit of a frame whose CRC matches, in the payload or in the CRC field, makes the CRC fail (R103 and S5; the
spec marks the property as derived). -/
def Obligations.CrcRejectsEverySingleBitFlip : Prop :=
  ∀ (frame : List Byte) (k bit : Nat), 2 ≤ frame.length → crcMatches frame = true → k < frame.length → bit < 8 →
    crcMatches (frame.set k (frame.getD k 0 ^^^ (1#8 <<< bit))) = false

/-! ### Timing model and host operations -/

/-- The timeout pair is ordered and fits 32 bits, for every legal operand (R79; R78 for the bound). -/
def Obligations.CharTimeoutBelowFrameTimeout : Prop :=
  ∀ (baud : Nat) (parity : Parity) (stop2 : Bool), 0 < baud → baud < 2 ^ 32 →
    charTimeoutOf baud (bitsPerChar parity stop2) < frameTimeoutOf baud (bitsPerChar parity stop2) ∧
    frameTimeoutOf baud (bitsPerChar parity stop2) ≤ 54000000

/-- INIT, accepted in UNCONF and IDLE with `baud > 0`: the address, the timeout pair and the drain; the descriptors, the result
values, `buf`, `tx_en` and everything else stay (47_host_operations.md section 1; 40_timing_model.md). After an out-of-range address
`station_id` is a free value, of which nothing is said (log 10). -/
def Obligations.InitSetsAddressTimeoutsAndDrains : Prop :=
  ∀ (s : State) (rest : List Action) (id : Byte) (baud : BitVec 32) (parity : Parity) (stop2 : Bool),
    s.script = .host (.init id baud parity stop2) :: rest → s.phase = .unconf ∨ s.phase = .idle → 0 < baud.toNat →
    ∃ t, step s = .next t ∧ t.phase = .drain ∧ t.tMark = s.now ∧
      (1 ≤ id.toNat → id.toNat ≤ 247 → t.conf.idAssigned = true ∧ t.conf.stationId = id) ∧
      (id.toNat = 0 ∨ 248 ≤ id.toNat → t.conf.idAssigned = false) ∧
      (let bpc := 10 + (if parity = .none then 0 else 1) + (if stop2 = true then 1 else 0)
       t.conf.charTimeout.toNat =
         (if baud.toNat ≤ 19200 then bpc * 2500000 / baud.toNat else bpc * 1000000 / baud.toNat + 750) ∧
       t.conf.frameTimeout.toNat =
         (if baud.toNat ≤ 19200 then bpc * 4500000 / baud.toNat else bpc * 1000000 / baud.toNat + 1750)) ∧
      t.conf.coils = s.conf.coils ∧ t.conf.di = s.conf.di ∧ t.conf.hr = s.conf.hr ∧ t.conf.ir = s.conf.ir ∧
      t.res = { s.res with valid := false } ∧ t.buf = s.buf ∧ t.txEn = s.txEn ∧
      t.par = s.par ∧ t.len = s.len ∧ t.req = s.req ∧ t.quietOk = s.quietOk ∧ t.exc = s.exc ∧ t.respLen = s.respLen ∧
      t.store = s.store ∧ t.rxq = s.rxq ∧ t.tx = s.tx ∧ t.txBusy = s.txBusy ∧ t.now = s.now ∧ t.script = rest

/-- The four CFG operations, accepted in UNCONF and IDLE: the region is configured with the given length and bound to the host's
array, cell 0 first; no phase changes, no drain starts, nothing else changes (47_host_operations.md section 2; that the operation
carries the array is log 11). -/
def Obligations.CfgBindsAndSizesTheRegion : Prop :=
  ∀ (s : State) (rest : List Action) (length : Word) (bits : List Bool) (words : List Word),
    s.phase = .unconf ∨ s.phase = .idle →
    let s' : State := { s with script := rest, res := { s.res with valid := false } }
    (s.script = .host (.cfgCoils length bits) :: rest → step s = .next { s' with
        conf := { s.conf with coils := ⟨true, length⟩ }, store := { s.store with coils := Memory.ofArray bits } }) ∧
    (s.script = .host (.cfgDi length bits) :: rest → step s = .next { s' with
        conf := { s.conf with di := ⟨true, length⟩ }, store := { s.store with di := Memory.ofArray bits } }) ∧
    (s.script = .host (.cfgHr length words) :: rest → step s = .next { s' with
        conf := { s.conf with hr := ⟨true, length⟩ }, store := { s.store with hr := Memory.ofArray words } }) ∧
    (s.script = .host (.cfgIr length words) :: rest → step s = .next { s' with
        conf := { s.conf with ir := ⟨true, length⟩ }, store := { s.store with ir := Memory.ofArray words } }) ∧
    (∀ a, Memory.read (Memory.ofArray bits) a = bits[a]?) ∧ (∀ a, Memory.read (Memory.ofArray words) a = words[a]?)

/-- INIT with `baud = 0`, and INIT or CFG outside UNCONF and IDLE, are refused: nothing changes, and the run goes on (R167, R81;
U1 and U2, "state unchanged"; log 9). -/
def Obligations.RefusedHostOperationChangesNothing : Prop :=
  ∀ (s : State) (rest : List Action) (op : HostOp), s.script = .host op :: rest →
    ((∃ id parity stop2, op = .init id 0#32 parity stop2) ∨
     (s.phase ≠ .unconf ∧ s.phase ≠ .idle ∧
       ((∃ id baud parity stop2, op = .init id baud parity stop2) ∨ (∃ n c, op = .cfgCoils n c) ∨
        (∃ n c, op = .cfgDi n c) ∨ (∃ n c, op = .cfgHr n c) ∨ (∃ n c, op = .cfgIr n c)))) →
    step s = .next { s with script := rest, res := { s.res with valid := false } }

/-- The host writes a cell of its own arrays between engine steps, in any phase: that cell has the value, every other cell of every
region and every register is as before (R169, R45; a write to a cell the host had not provided provides it, log 12). -/
def Obligations.HostCellWriteChangesOneCell : Prop :=
  ∀ (s : State) (rest : List Action) (a : Word) (bit : Bool) (w : Word),
    (s.script = .host (.writeCoil a bit) :: rest → ∃ m, step s = .next { s with
        script := rest, res := { s.res with valid := false }, store := { s.store with coils := m } } ∧
      Memory.read m a.toNat = some bit ∧ ∀ b, b ≠ a.toNat → Memory.read m b = Memory.read s.store.coils b) ∧
    (s.script = .host (.writeDi a bit) :: rest → ∃ m, step s = .next { s with
        script := rest, res := { s.res with valid := false }, store := { s.store with di := m } } ∧
      Memory.read m a.toNat = some bit ∧ ∀ b, b ≠ a.toNat → Memory.read m b = Memory.read s.store.di b) ∧
    (s.script = .host (.writeHr a w) :: rest → ∃ m, step s = .next { s with
        script := rest, res := { s.res with valid := false }, store := { s.store with hr := m } } ∧
      Memory.read m a.toNat = some w ∧ ∀ b, b ≠ a.toNat → Memory.read m b = Memory.read s.store.hr b) ∧
    (s.script = .host (.writeIr a w) :: rest → ∃ m, step s = .next { s with
        script := rest, res := { s.res with valid := false }, store := { s.store with ir := m } } ∧
      Memory.read m a.toNat = some w ∧ ∀ b, b ≠ a.toNat → Memory.read m b = Memory.read s.store.ir b)

/-- Reset asserted in any phase: every element of the engine at its value of R26, and the transport, the time base and the host's
arrays as they were (R190; the values R26 leaves unspecified are the model's, log 1 and log 23). -/
def Obligations.ResetReachesOnlyTheEngine : Prop :=
  ∀ (s : State) (rest : List Action), s.script = .reset :: rest →
    step s = .next { State.reset with
      par := s.par, store := s.store, rxq := s.rxq, tx := s.tx, txBusy := s.txBusy, now := s.now, script := rest, free := s.free }

/-- The values R26 gives for reset. -/
def Obligations.ResetStateHasSpecifiedValues : Prop :=
  State.reset.phase = .unconf ∧ State.reset.len = 0#9 ∧ State.reset.conf.idAssigned = false ∧
  (∀ sp, descriptor State.reset sp = ⟨false, 0#16⟩) ∧ State.reset.exc = 0#3 ∧ State.reset.respLen = 0#9 ∧
  State.reset.res = ⟨0#8, 0#3, 0#16, 0#16, false⟩ ∧ State.reset.txEn = false

/-! ### Frame acquisition -/

/-- UNCONF: no engine step is enabled, `tx_en = 0`, bytes accumulate untouched, nothing is transmitted, and the only way out is INIT
(R92). -/
def Obligations.UnconfIsInertUntilInit : Prop :=
  ∀ s : State, Inv s → s.phase = .unconf →
    enabledRule s = none ∧ s.txEn = false ∧
    ∀ t, step s = .next t →
      t.tx = s.tx ∧ t.txEn = false ∧ t.res.valid = false ∧ s.rxq <+: t.rxq ∧
      (t.phase = .unconf ∨
        t.phase = .drain ∧ ∃ id baud parity stop2 rest, s.script = .host (.init id baud parity stop2) :: rest)

/-- DRAIN: a waiting byte is discarded and restarts the timer; with none waiting and `frame_timeout` elapsed the engine goes to IDLE;
otherwise it waits (R93). -/
def Obligations.DrainDiscardsUntilQuiet : Prop :=
  ∀ (s : State) (rest : List Action), s.phase = .drain → EngineTurn s rest →
    (∀ b q, s.rxq = b :: q → step s = .next { afterTurn s rest with rxq := q, tMark := s.now }) ∧
    (s.rxq = [] → s.conf.frameTimeout.toNat ≤ elapsed s → step s = .next { afterTurn s rest with phase := .idle }) ∧
    (s.rxq = [] → elapsed s < s.conf.frameTimeout.toNat → enabledRule s = none)

/-- IDLE: a waiting byte starts a reception and is not removed; with none the engine waits, with no timeout (R94). -/
def Obligations.IdleStartsReceptionOnByte : Prop :=
  ∀ (s : State) (rest : List Action), s.phase = .idle → EngineTurn s rest →
    (s.rxq ≠ [] → step s = .next { afterTurn s rest with len := 0#9, tMark := s.now, phase := .recv }) ∧
    (s.rxq = [] → enabledRule s = none)

/-- RECV: capacity first, then the timer, then a byte (R95, R96, R97). -/
def Obligations.RecvTestsCapacityThenTimerThenByte : Prop :=
  ∀ (s : State) (rest : List Action), s.phase = .recv → EngineTurn s rest →
    (s.len.toNat = 256 → step s = .next { afterTurn s rest with phase := .quiet }) ∧
    (s.len.toNat < 256 → s.conf.charTimeout.toNat < elapsed s → step s = .next { afterTurn s rest with phase := .quiet }) ∧
    (s.len.toNat < 256 → elapsed s ≤ s.conf.charTimeout.toNat → ∀ b q, s.rxq = b :: q →
      ∃ buf', step s = .next { afterTurn s rest with buf := buf', rxq := q, len := s.len + 1#9, tMark := s.now } ∧
        (s.len + 1#9).toNat = s.len.toNat + 1 ∧ Memory.read buf' s.len.toNat = some b ∧
        ∀ a, a ≠ s.len.toNat → Memory.read buf' a = Memory.read s.buf a) ∧
    (s.len.toNat < 256 → elapsed s ≤ s.conf.charTimeout.toNat → s.rxq = [] → enabledRule s = none)

/-- QUIET: after `frame_timeout` since the last byte, `quiet_ok` records whether the queue is empty; no byte is removed (R99). -/
def Obligations.QuietLatchesSilence : Prop :=
  ∀ (s : State) (rest : List Action), s.phase = .quiet → EngineTurn s rest →
    (s.conf.frameTimeout.toNat ≤ elapsed s →
      step s = .next { afterTurn s rest with quietOk := decide (s.rxq.length = 0), phase := .validate }) ∧
    (elapsed s < s.conf.frameTimeout.toNat → enabledRule s = none)

/-- VALIDATE accepts exactly the frames R100 names. Acceptance changes the phase and nothing else; rejection reports (0, 0, 0, 0),
goes to IDLE and changes nothing else (R100 to R105). -/
def Obligations.ValidateAcceptsExactlyMatchingFrames : Prop :=
  ∀ (s : State) (rest : List Action) (frame : List Byte), s.phase = .validate → EngineTurn s rest →
    frame.length = s.len.toNat → frame.length ≤ 256 → (∀ k, k < frame.length → Memory.read s.buf k = frame[k]?) →
    let accepted : Prop := s.quietOk = true ∧ 4 ≤ frame.length ∧
      (frame.getD 0 0 = 0#8 ∨ (s.conf.idAssigned = true ∧ frame.getD 0 0 = s.conf.stationId)) ∧
      word (frame.getD (frame.length - 1) 0) (frame.getD (frame.length - 2) 0) = crc16 (frame.take (frame.length - 2))
    (accepted → step s = .next { afterTurn s rest with phase := .dispatch }) ∧
    (¬ accepted → step s = .next { afterTurn s rest with phase := .idle, res := ⟨0#8, 0#3, 0#16, 0#16, true⟩ })

/-! ### Dispatch -/

/-- A step in DISPATCH runs the request the buffer decodes to: when `buf[0..len)` decodes to `i`, the step is `exec i`, with the script
moved on, the previous `res_valid` over, and no wait pending afterwards. -/
def Obligations.StepRunsTheDecodedRequest : Prop :=
  ∀ (s : State) (rest : List Action) (frame : List Byte) (i : Instr),
    s.phase = .dispatch → EngineTurn s rest → fetchFrame s = .ok frame → decode frame = .ok i →
    step s = mapNext rearm (exec i { s with script := rest, res := { s.res with valid := false } })

/-- An unrecognised function code always earns exception 1, whatever its payload and whatever is configured (R113). -/
def Obligations.UnrecognisedFunctionRaisesOne : Prop :=
  ∀ (id fc : Byte) (payload : List Byte) (s : State),
    ∃ t, exec (.illegal id fc payload) s = .next t ∧ RaisedException (.illegal id fc payload) 1#3 s t

/-- A function whose region is absent or empty earns exception 1, before its shape or range is looked at (R116). -/
def Obligations.AbsentRegionRaisesOne : Prop :=
  ∀ (i : Instr) (sp : Space) (s : State), i.space? = some sp →
    (descriptor s sp).cfg = false ∨ (descriptor s sp).len = 0#16 →
    ∃ t, exec i s = .next t ∧ RaisedException i 1#3 s t

/-- With the region present, a request whose shape is not legal earns exception 3, before its range is looked at
(43_dispatcher.md section 4; the lower bound 1 and the length rule are D14 and D15). -/
def Obligations.IllegalShapeRaisesThree : Prop :=
  ∀ (i : Instr) (sp : Space) (s : State), i.wf = true → i.space? = some sp → Present s sp → ¬ i.legalShape →
    ∃ t, exec i s = .next t ∧ RaisedException i 3#3 s t

/-- With the region present and the shape legal, a range that leaves the region earns exception 2 (R118; the condition is written
over the unbounded integers, to which the spec says its own is equivalent). -/
def Obligations.RangeOutsideRegionRaisesTwo : Prop :=
  ∀ (i : Instr) (sp : Space) (s : State), i.wf = true → i.space? = some sp → Present s sp → i.legalShape →
    (descriptor s sp).len.toNat < i.start.toNat + i.qty.toNat →
    ∃ t, exec i s = .next t ∧ RaisedException i 2#3 s t

/-- RC and RDI: the cells packed LSB first, padded with 0, behind a count byte; nothing else of the buffer and no region cell changes
(44_read_functions.md; the layout is G4, the padding D18). -/
def Obligations.BitReadsPackCellsLsbFirst : Prop :=
  ∀ (s : State) (id : Byte) (start q : Word) (cell : Nat → Bool), 1 ≤ q.toNat → q.toNat ≤ 2000 →
    let good : Instr → Prop := fun i => ∃ t, exec i s = .next t ∧ Reports i 0#3 t ∧
      t.respLen.toNat = 3 + (q.toNat + 7) / 8 ∧
      (∃ n, Memory.read t.buf 2 = some n ∧ n.toNat = (q.toNat + 7) / 8) ∧
      (∀ j, j < (q.toNat + 7) / 8 → ∃ d, Memory.read t.buf (3 + j) = some d ∧
        ∀ b, b < 8 → d.getLsbD b = (decide (8 * j + b < q.toNat) && cell (8 * j + b))) ∧
      (∀ a, a < 2 ∨ 3 + (q.toNat + 7) / 8 ≤ a → Memory.read t.buf a = Memory.read s.buf a) ∧
      t.store = s.store ∧ DispatchFrame s t
    (Present s .coils → InRange s .coils start q →
      (∀ k, k < q.toNat → Memory.read s.store.coils (start.toNat + k) = some (cell k)) → good (.rc id (.fit start q))) ∧
    (Present s .di → InRange s .di start q →
      (∀ k, k < q.toNat → Memory.read s.store.di (start.toNat + k) = some (cell k)) → good (.rdi id (.fit start q)))

/-- RHR and RIR: the cells as big-endian words behind a count byte; nothing else of the buffer and no region cell changes
(44_read_functions.md; the layout is G4). -/
def Obligations.WordReadsEmitBigEndianWords : Prop :=
  ∀ (s : State) (id : Byte) (start q : Word) (cell : Nat → Word), 1 ≤ q.toNat → q.toNat ≤ 125 →
    let good : Instr → Prop := fun i => ∃ t, exec i s = .next t ∧ Reports i 0#3 t ∧
      t.respLen.toNat = 3 + 2 * q.toNat ∧
      (∃ n, Memory.read t.buf 2 = some n ∧ n.toNat = 2 * q.toNat) ∧
      (∀ k, k < q.toNat → ∃ h l, Memory.read t.buf (3 + 2 * k) = some h ∧ Memory.read t.buf (4 + 2 * k) = some l ∧
        h.toNat * 256 + l.toNat = (cell k).toNat) ∧
      (∀ a, a < 2 ∨ 3 + 2 * q.toNat ≤ a → Memory.read t.buf a = Memory.read s.buf a) ∧
      t.store = s.store ∧ DispatchFrame s t
    (Present s .hr → InRange s .hr start q →
      (∀ k, k < q.toNat → Memory.read s.store.hr (start.toNat + k) = some (cell k)) → good (.rhr id (.fit start q))) ∧
    (Present s .ir → InRange s .ir start q →
      (∀ k, k < q.toNat → Memory.read s.store.ir (start.toNat + k) = some (cell k)) → good (.rir id (.fit start q)))

/-- WSC writes one coil, 1 for 0xFF00 and 0 for 0x0000; every other cell of every region, the buffer and everything else stay, and
the response is the first six request bytes (R135). -/
def Obligations.WriteSingleCoilWritesOneCoil : Prop :=
  ∀ (s : State) (id : Byte) (addr value : Word), Present s .coils → value = 0x0000#16 ∨ value = 0xFF00#16 →
    addr.toNat < s.conf.coils.len.toNat → (Memory.read s.store.coils addr.toNat).isSome = true →
    ∃ t, exec (.wsc id (.fit addr value)) s = .next t ∧ Reports (.wsc id (.fit addr value)) 0#3 t ∧
      Memory.read t.store.coils addr.toNat = some (decide (value = 0xFF00#16)) ∧
      (∀ a, a ≠ addr.toNat → Memory.read t.store.coils a = Memory.read s.store.coils a) ∧
      t.store.di = s.store.di ∧ t.store.hr = s.store.hr ∧ t.store.ir = s.store.ir ∧
      t.respLen = 6#9 ∧ t.buf = s.buf ∧ DispatchFrame s t

/-- WSR writes one holding register, with any 16-bit value; every other cell, the buffer and everything else stay, and the response is
the first six request bytes (R136). -/
def Obligations.WriteSingleRegisterWritesOneRegister : Prop :=
  ∀ (s : State) (id : Byte) (addr value : Word), Present s .hr →
    addr.toNat < s.conf.hr.len.toNat → (Memory.read s.store.hr addr.toNat).isSome = true →
    ∃ t, exec (.wsr id (.fit addr value)) s = .next t ∧ Reports (.wsr id (.fit addr value)) 0#3 t ∧
      Memory.read t.store.hr addr.toNat = some value ∧
      (∀ a, a ≠ addr.toNat → Memory.read t.store.hr a = Memory.read s.store.hr a) ∧
      t.store.coils = s.store.coils ∧ t.store.di = s.store.di ∧ t.store.ir = s.store.ir ∧
      t.respLen = 6#9 ∧ t.buf = s.buf ∧ DispatchFrame s t

/-- WMC writes coils `start` to `start + q - 1`, coil `start + k` from bit `k mod 8` of data byte `k div 8`; the unused bits write
nothing, every other cell and everything else stay (R137, R139; the bit order is G6). -/
def Obligations.WriteMultipleCoilsUnpacksBits : Prop :=
  ∀ (s : State) (id : Byte) (start q : Word) (data : List Byte), Present s .coils → InRange s .coils start q →
    1 ≤ q.toNat → q.toNat ≤ 1968 → data.length = (q.toNat + 7) / 8 →
    (∀ k, k < q.toNat → (Memory.read s.store.coils (start.toNat + k)).isSome = true) →
    ∃ t, exec (.wmc id (.fit start q data)) s = .next t ∧ Reports (.wmc id (.fit start q data)) 0#3 t ∧
      (∀ k, k < q.toNat →
        Memory.read t.store.coils (start.toNat + k) = some ((data.getD (k / 8) 0).getLsbD (k % 8))) ∧
      (∀ a, a < start.toNat ∨ start.toNat + q.toNat ≤ a → Memory.read t.store.coils a = Memory.read s.store.coils a) ∧
      t.store.di = s.store.di ∧ t.store.hr = s.store.hr ∧ t.store.ir = s.store.ir ∧
      t.respLen = 6#9 ∧ t.buf = s.buf ∧ DispatchFrame s t

/-- WMR writes registers `start` to `start + q - 1`, register `start + k` from data bytes `2k` (high) and `2k + 1` (low); every other
cell and everything else stay (R138). -/
def Obligations.WriteMultipleRegistersUnpacksWords : Prop :=
  ∀ (s : State) (id : Byte) (start q : Word) (data : List Byte), Present s .hr → InRange s .hr start q →
    1 ≤ q.toNat → q.toNat ≤ 123 → data.length = 2 * q.toNat →
    (∀ k, k < q.toNat → (Memory.read s.store.hr (start.toNat + k)).isSome = true) →
    ∃ t, exec (.wmr id (.fit start q data)) s = .next t ∧ Reports (.wmr id (.fit start q data)) 0#3 t ∧
      (∀ k, k < q.toNat → ∃ w, Memory.read t.store.hr (start.toNat + k) = some w ∧
        w.toNat = (data.getD (2 * k) 0).toNat * 256 + (data.getD (2 * k + 1) 0).toNat) ∧
      (∀ a, a < start.toNat ∨ start.toNat + q.toNat ≤ a → Memory.read t.store.hr a = Memory.read s.store.hr a) ∧
      t.store.coils = s.store.coils ∧ t.store.di = s.store.di ∧ t.store.ir = s.store.ir ∧
      t.respLen = 6#9 ∧ t.buf = s.buf ∧ DispatchFrame s t

/-- The one stop of a request: it is legal and in range, and the host did not provide one of its cells (U4, "fault in the model";
log 3). Every other request ends in a next state. -/
def Obligations.RequestStopsOnlyOnUnprovidedCell : Prop :=
  ∀ (i : Instr) (s : State), i.wf = true →
    (∃ t, exec i s = .next t) ∨
    (exec i s = .fault .cellAbsent ∧ ∃ sp, i.space? = some sp ∧ Present s sp ∧ i.legalShape ∧ InRange s sp i.start i.qty ∧
      ∃ k, k < i.qty.toNat ∧ ¬ CellProvided s sp (i.start.toNat + k))

/-- Every dispatch latches and reports its request, earns 0, 1, 2 or 3, and builds its response: it sets `resp_len` and writes no byte of
`buf` but those from index 1 up to `resp_len - 1`. It changes no engine register besides; a request that earns an exception changes no
region cell (43_dispatcher.md section 5; 60_exceptions.md section 4). -/
def Obligations.DispatchReportsAndNeverMutatesPartially : Prop :=
  ∀ (i : Instr) (s t : State), exec i s = .next t →
    Reports i t.exc t ∧ DispatchFrame s t ∧ t.exc.toNat ≤ 3 ∧ (t.exc ≠ 0#3 → t.store = s.store) ∧
    Memory.read t.buf 0 = Memory.read s.buf 0 ∧
    ∀ a, t.respLen.toNat ≤ a → Memory.read t.buf a = Memory.read s.buf a

/-- A broadcast request is executed exactly like a unicast one: the same cells, exception and report, and it differs only in the
latched address and in going to IDLE where the other goes to EMIT (43_dispatcher.md section 5). -/
def Obligations.BroadcastExecutesLikeUnicast : Prop :=
  ∀ (i : Instr) (id : Byte) (s t : State), id ≠ 0#8 → exec (i.withId 0#8) s = .next t →
    t.phase = .idle ∧ exec (i.withId id) s = .next { t with req := { t.req with id := id }, phase := .emit }

/-- Two identical reads of unmutated regions give byte-identical responses: a read changes no region cell, and its response depends on
nothing but the request, the descriptors and the cells (R133). -/
def Obligations.RepeatedReadsGiveIdenticalResponses : Prop :=
  ∀ (i : Instr) (s t s' : State), i.isRead = true → i.wf = true → exec i s = .next t →
    s'.store = t.store → s'.conf = t.conf → Memory.read s'.buf 0 = Memory.read s.buf 0 → Memory.read s'.buf 1 = Memory.read s.buf 1 →
    t.store = s.store ∧ t.conf = s.conf ∧
    ∃ t', exec i s' = .next t' ∧ t'.respLen = t.respLen ∧ t'.exc = t.exc ∧
      ∀ k, k < t.respLen.toNat → Memory.read t'.buf k = Memory.read t.buf k

/-- Every response body has 3 to 253 bytes, so that it fits the buffer with its CRC (44_read_functions.md section 3). -/
def Obligations.ResponseBodyFitsTheBuffer : Prop :=
  ∀ (i : Instr) (s t : State), exec i s = .next t → 3 ≤ t.respLen.toNat ∧ t.respLen.toNat ≤ 253

/-! ### Response emission -/

/-- EMIT: the CRC of the response body is appended to it, low byte first, `tx_en` rises, exactly `resp_len + 2` bytes are handed over in
order, and the engine goes to FLUSH; nothing else changes (46_response_emission.md, R147 to R150). -/
def Obligations.EmitSignsAndHandsOverTheResponse : Prop :=
  ∀ (s : State) (rest : List Action) (body : List Byte), s.phase = .emit → EngineTurn s rest →
    body.length = s.respLen.toNat → body.length + 2 ≤ 256 → (∀ k, k < body.length → Memory.read s.buf k = body[k]?) →
    ∃ buf', step s = .next { afterTurn s rest with
        buf := buf', tx := s.tx ++ (body ++ [lo (crc16 body), hi (crc16 body)]), txBusy := true, txEn := true, phase := .flush } ∧
      Memory.read buf' body.length = some (lo (crc16 body)) ∧ Memory.read buf' (body.length + 1) = some (hi (crc16 body)) ∧
      ∀ a, a ≠ body.length → a ≠ body.length + 1 → Memory.read buf' a = Memory.read s.buf a

/-- FLUSH: while `tx_busy = 1` no step is enabled; when it clears, `tx_en` falls, the timer restarts and the engine drains; received bytes
are not touched (R151, R152). -/
def Obligations.FlushWaitsThenLowersTxEn : Prop :=
  ∀ (s : State) (rest : List Action), s.phase = .flush → EngineTurn s rest →
    (s.txBusy = true → enabledRule s = none) ∧
    (s.txBusy = false → step s = .next { afterTurn s rest with txEn := false, tMark := s.now, phase := .drain })

/-- While `tx_busy = 1` the engine stays in FLUSH with `tx_en = 1`, whatever else happens: every step whose action is neither the
transmission end nor reset keeps both and transmits nothing (R158, U6). So a transmission the line never completes holds it there for
ever: after any number of steps of a script without those two actions it is still there. Where besides nothing at all happens, each step
is one microsecond: the empty script is log 5's, the microsecond a step log 20's. -/
def Obligations.UnfinishedTransmissionHangsInFlush : Prop :=
  ∀ s : State, Inv s → s.phase = .flush → s.txBusy = true →
    ((∀ rest, s.script ≠ .txDone :: rest) → (∀ rest, s.script ≠ .reset :: rest) →
      ∃ t, step s = .next t ∧ t.phase = .flush ∧ t.txBusy = true ∧ t.txEn = true ∧ t.tx = s.tx) ∧
    ((∀ a ∈ s.script, a ≠ .txDone ∧ a ≠ .reset) → ∀ n,
      ∃ t, Sys2Proof.core.run n s = .next t ∧ t.phase = .flush ∧ t.txBusy = true ∧ t.txEn = true ∧ t.tx = s.tx ∧
        (s.script = [] → s.par.timeW = none → t.now = s.now + n))

/-- The engine transmits only in EMIT, and then a signed response; no other step of any agent changes the transmit stream (R150, "The
engine sends nothing else, ever"). -/
def Obligations.OnlyEmitTransmits : Prop :=
  ∀ s t : State, step s = .next t →
    t.tx = s.tx ∨ (s.phase = .emit ∧ t.phase = .flush ∧ ∃ body, t.tx = s.tx ++ sign body ∧ body.length = s.respLen.toNat)

/-! ### The line and the clock -/

/-- A received byte is appended to the queue, in any phase, unless the queue has a depth and is full; nothing else changes but the wait
of a step that another one replaces (R37, R202, U7). -/
def Obligations.ReceivedByteIsQueuedOrDropped : Prop :=
  ∀ (s : State) (rest : List Action) (b : Byte), s.script = .receive b :: rest →
    ∃ w, step s = .next { s with
      script := rest, res := { s.res with valid := false }, waited := w,
      rxq := if (∃ d, s.par.rxqDepth = some d ∧ d ≤ s.rxq.length) then s.rxq else s.rxq ++ [b] } ∧ (w = s.waited ∨ w = 0)

/-- Received bytes leave the queue only one at a time, from its head, in DRAIN and in RECV (R24, R108). -/
def Obligations.OnlyDrainAndRecvRemoveBytes : Prop :=
  ∀ s t : State, step s = .next t →
    (∃ new, t.rxq = s.rxq ++ new) ∨ ((s.phase = .drain ∨ s.phase = .recv) ∧ ∃ b, s.rxq = b :: t.rxq)

/-- Time does not advance while an engine step is enabled that has waited for `STEP_LATENCY`, so with `STEP_LATENCY = 0` while any is
enabled, in a counter of any width (R7). In the unbounded counter, the default of `TIME_W`, time never runs backwards (R186); that one
step advances it by one microsecond at most is the model's choice (log 20), and a finite counter wraps (log 8). -/
def Obligations.ClockWaitsForEnabledSteps : Prop :=
  ∀ s t : State, step s = .next t →
    (enabledRule s ≠ none → s.par.stepLatency ≤ s.waited → t.now = s.now) ∧
    (s.par.timeW = none → s.now ≤ t.now ∧ t.now ≤ s.now + 1)

/-- In a counter of `TIME_W` bits the elapsed time is right while the measured interval is shorter than `2^TIME_W` microseconds: wrapping
both instants gives the same elapsed time as the unbounded clock (R18, R203; the modular counter and subtraction are log 8). -/
def Obligations.WrappingTimerMeasuresShortIntervals : Prop :=
  ∀ (s : State) (w mark interval : Nat), interval < 2 ^ w →
    elapsed { s with par := { s.par with timeW := some w },
                     tMark := wrapTime { s.par with timeW := some w } mark,
                     now := wrapTime { s.par with timeW := some w } (mark + interval) } = interval

/-- With a quiet line and an empty script DRAIN ends in IDLE after exactly `frame_timeout` from the timer mark (R93, R161, R153). That the
engine takes its step at once, whatever `STEP_LATENCY` is, is the empty script's meaning (log 5), and one microsecond a step is log 20;
QuietDrainEndsExactlyAtFrameTimeout speaks of every script. -/
def Obligations.QuietLineEndsDrainAfterFrameTimeout : Prop :=
  ∀ s : State, s.phase = .drain → s.rxq = [] → s.script = [] → s.par.timeW = none → s.tMark ≤ s.now →
    s.now ≤ s.tMark + s.conf.frameTimeout.toNat →
    ∃ t, Sys2Proof.core.run (s.tMark + s.conf.frameTimeout.toNat - s.now + 1) s = .next t ∧
      t.phase = .idle ∧ t.now = s.tMark + s.conf.frameTimeout.toNat ∧ t.rxq = [] ∧ t.conf = s.conf ∧ t.tx = s.tx ∧ t.store = s.store

/-- A burst of up to 256 bytes waiting when RECV begins is received whole, in order, at one instant (R97, "the steps follow one another
at the same instant"). That the engine takes these steps at once, whatever `STEP_LATENCY` is, is the empty script's meaning (log 5); R7
forces it for `STEP_LATENCY = 0`, as ClockWaitsForEnabledSteps says of every script. -/
def Obligations.WaitingBurstIsReceivedInOrder : Prop :=
  ∀ (s : State) (bytes : List Byte), s.phase = .recv → s.len = 0#9 → s.rxq = bytes → bytes.length ≤ 256 → s.script = [] →
    s.par.timeW = none → elapsed s ≤ s.conf.charTimeout.toNat →
    ∃ t, Sys2Proof.core.run bytes.length s = .next t ∧ t.phase = .recv ∧ t.rxq = [] ∧ t.len.toNat = bytes.length ∧ t.now = s.now ∧
      ∀ k, k < bytes.length → Memory.read t.buf k = bytes[k]?

/-! ### The whole machine -/

/-- R12's control-flow graph has "The transitions, all of them": every step keeps the phase or takes one of its edges; besides, reset
leads to UNCONF. -/
def Obligations.PhaseChangesFollowTheGraph : Prop :=
  ∀ s t : State, step s = .next t →
    t.phase = s.phase ∨ phaseEdge s.phase t.phase = true ∨ (t.phase = .unconf ∧ ∃ rest, s.script = .reset :: rest)

/-- Nothing but a host operation or reset changes a configuration register: no engine step and no wire request can
(10_state.md section 3; 60_exceptions.md section 8). -/
def Obligations.WireCannotChangeConfiguration : Prop :=
  ∀ s t : State, step s = .next t → (∀ op rest, s.script ≠ .host op :: rest) → (∀ rest, s.script ≠ .reset :: rest) →
    t.conf = s.conf

/-- Nothing but the host changes a discrete input or an input register, and the engine changes coils and holding registers only in
DISPATCH (20_memory.md section 4; 45_write_functions.md, R141). -/
def Obligations.EngineWritesOnlyCoilsAndHoldingRegistersInDispatch : Prop :=
  ∀ s t : State, step s = .next t → (∀ op rest, s.script ≠ .host op :: rest) →
    t.store.di = s.store.di ∧ t.store.ir = s.store.ir ∧ (s.phase ≠ .dispatch → t.store = s.store)

/-- `res_valid` occurs exactly at the end of a rejecting VALIDATE, with zeros, and of a DISPATCH, with the latched request and its
exception; and only such an `Outcome` or reset changes the result values (R166). That the event shows as true in the one state after its
step is log 13. -/
def Obligations.OutcomeOccursOncePerExchange : Prop :=
  ∀ s t : State, step s = .next t →
    (t.res.valid = true → (s.phase = .validate ∧ t.phase = .idle ∧ t.res = ⟨0#8, 0#3, 0#16, 0#16, true⟩) ∨
      (s.phase = .dispatch ∧ t.phase ≠ .dispatch ∧ t.res = ⟨t.req.fc, t.exc, t.req.start, t.req.qty, true⟩)) ∧
    (t.res.valid = false → t.res = { s.res with valid := false } ∨
      (t.res = ⟨0#8, 0#3, 0#16, 0#16, false⟩ ∧ ∃ rest, s.script = .reset :: rest)) ∧
    (s.phase = .validate → t.phase = .idle → t.res.valid = true) ∧
    (s.phase = .dispatch → t.phase ≠ .dispatch → t.phase ≠ .unconf → t.res.valid = true)

/-- The invariant holds at State.reset. Its clauses on values R26 gives rest on R26 (D24); that nothing is listed in the host's regions is
log 4, and that nothing is listed in the frame buffer is log 2; it says nothing of `t_mark` in UNCONF, which R26 leaves unspecified. -/
def Obligations.InvariantHoldsAtReset : Prop := Inv State.reset

/-- Every step keeps the invariant: canonical memories, `len` at most 256, a legal station address, ordered timeouts, no exception code
4, `tx_en` exactly in FLUSH, DISPATCH only with an accepted frame, EMIT only with a written unicast response, and in the phases that read
the timer a mark that is not in the future (R13, R14, R79, R100, R147, R157, R175, R186). -/
def Obligations.EveryStepKeepsTheInvariant : Prop :=
  ∀ s t : State, Inv s → step s = .next t → Inv t

/-- In a state that meets the invariant a step never stops but on a region cell the host did not provide, in DISPATCH: no byte of the
frame buffer is read before it is written, and no index leaves it (R26, R27, R36; U4). -/
def Obligations.ReachableStepsStopOnlyOnUnprovidedCells : Prop :=
  ∀ s : State, Inv s → (∃ t, step s = .next t) ∨ (step s = .fault .cellAbsent ∧ s.phase = .dispatch)

/-- No rule reads an element before writing it: two states that differ only in what R27 calls unread step to the same stop or to states
that again differ only there, with the same outputs. So no behaviour depends on a reset value the spec leaves unspecified (R26, R27, R36,
U8, U9). -/
def Obligations.UnspecifiedValuesAreNeverObserved : Prop :=
  ∀ s t : State, SameLive s t → SameOutcome (step s) (step t)

/-! ### The timer in every interleaving, the line's and the host's other actions, the transmit-enable line -/

/-- Whatever the agents do, DRAIN is left for IDLE only with no byte waiting and `frame_timeout` elapsed, at that instant; and with
`STEP_LATENCY = 0` time never passes `t_mark + frame_timeout` while the engine stays in DRAIN. So it ends exactly there, for every script
(R93, R7; the counter is the unbounded one in the second clause, and `elapsed` of a finite one is log 8). -/
def Obligations.QuietDrainEndsExactlyAtFrameTimeout : Prop :=
  ∀ s t : State, step s = .next t → s.phase = .drain →
    (t.phase = .idle → s.rxq = [] ∧ s.conf.frameTimeout.toNat ≤ elapsed s ∧ t.now = s.now) ∧
    (t.phase = .drain → s.par.timeW = none → s.par.stepLatency = 0 → s.now ≤ s.tMark + s.conf.frameTimeout.toNat →
      t.now ≤ t.tMark + t.conf.frameTimeout.toNat)

/-- The line reports the end of a transmission, in any phase: `tx_busy` clears and nothing else changes (R38). A wait for
`STEP_LATENCY` begins anew when this enables the step that leaves FLUSH (log 6). -/
def Obligations.TransmissionEndClearsTxBusyAlone : Prop :=
  ∀ (s : State) (rest : List Action), s.script = .txDone :: rest →
    step s = .next { s with
      script := rest, res := { s.res with valid := false }, txBusy := false,
      waited := if s.phase = .flush ∧ s.txBusy = true then 0 else s.waited }

/-- The host reads a cell of its own arrays between engine steps, in any phase: nothing changes (R169, R45; log 12). -/
def Obligations.HostCellReadChangesNothing : Prop :=
  ∀ (s : State) (rest : List Action) (sp : Space) (a : Word), s.script = .host (.readCell sp a) :: rest →
    step s = .next { s with script := rest, res := { s.res with valid := false } }

/-- With a transmit-enable line `tx_en` is driven on it, high exactly in FLUSH; without one nothing is driven, and every step is otherwise
the same, the register `tx_en` and the flush included (R156, R157). -/
def Obligations.TransmitEnableLineIsDrivenOnlyIfPresent : Prop :=
  ∀ (s : State) (present : Bool),
    txEnLine (withTxEnLine present s) = (if present = true then some s.txEn else none) ∧
    (Inv s → present = true → (txEnLine (withTxEnLine present s) = some true ↔ s.phase = .flush)) ∧
    step (withTxEnLine present s) = mapNext (withTxEnLine present) (step s)
end

