-- ==== Sys2Proof/Laws/Bytes.lean ====
section
/-! SUPPORT. What the byte, field and packing helpers compute, cell by cell and byte by byte. -/

namespace Sys2Proof.Machine

theorem word_toNat (h l : Byte) : (word h l).toNat = h.toNat * 256 + l.toNat := by
  have hl := l.isLt
  simp only [word, BitVec.toNat_append]
  rw [Nat.shiftLeft_eq, ← Nat.mul_comm, Nat.mul_comm, ← Nat.shiftLeft_eq, ← Nat.shiftLeft_add_eq_or_of_lt hl, Nat.shiftLeft_eq]

theorem hi_toNat (w : Word) : (hi w).toNat = w.toNat / 256 := by
  have := w.isLt
  simp only [hi, BitVec.toNat_setWidth, BitVec.toNat_ushiftRight, Nat.shiftRight_eq_div_pow]
  omega

theorem lo_toNat (w : Word) : (lo w).toNat = w.toNat % 256 := by simp [lo]

@[simp] theorem word_hi_lo (w : Word) : word (hi w) (lo w) = w := by
  apply BitVec.eq_of_toNat_eq
  rw [word_toNat, hi_toNat, lo_toNat]
  omega

@[simp] theorem hi_word (h l : Byte) : hi (word h l) = h := by
  apply BitVec.eq_of_toNat_eq
  have := l.isLt
  rw [hi_toNat, word_toNat]
  omega

@[simp] theorem lo_word (h l : Byte) : lo (word h l) = l := by
  apply BitVec.eq_of_toNat_eq
  have := l.isLt
  rw [lo_toNat, word_toNat]
  omega

/-! ### Bits -/

/-- The number `packByte` builds, bit by bit. -/
theorem foldr_bits_testBit (cells : List Bool) (b : Nat) :
    (cells.foldr (fun (c : Bool) acc => 2 * acc + c.toNat) 0).testBit b = cells.getD b false := by
  induction cells generalizing b with
  | nil => simp
  | cons c cs ih =>
    simp only [List.foldr_cons]
    cases b with
    | zero => cases c <;> simp [Nat.testBit_zero]
    | succ b =>
      rw [Nat.testBit_succ, show (2 * cs.foldr (fun (c : Bool) acc => 2 * acc + c.toNat) 0 + c.toNat) / 2 =
        cs.foldr (fun (c : Bool) acc => 2 * acc + c.toNat) 0 by cases c <;> simp; omega, ih]
      simp

/-- Bit `b` of a packed byte is cell `b` of its eight, or 0 (R61). -/
theorem packByte_getLsbD (cells : List Bool) {b : Nat} (hb : b < 8) :
    (packByte cells).getLsbD b = cells.getD b false := by
  rw [packByte, BitVec.getLsbD_ofNat, foldr_bits_testBit]
  simp [hb]

@[simp] theorem packBits_length (cells : List Bool) : (packBits cells).length = ceil8 cells.length := by simp [packBits]

/-- Data byte `j` of a bit read has, at bit `b`, cell `8j + b` if there is one, else 0 (R125). -/
theorem packBits_bit (cells : List Bool) {j b : Nat} (hj : j < ceil8 cells.length) (hb : b < 8) :
    ∃ d, (packBits cells)[j]? = some d ∧ d.getLsbD b = cells.getD (8 * j + b) false := by
  refine ⟨packByte ((cells.drop (8 * j)).take 8), by simp [packBits, hj], ?_⟩
  rw [packByte_getLsbD _ hb]
  simp [List.getD_eq_getElem?_getD, hb]

@[simp] theorem unpackBits_length (q : Nat) (data : List Byte) : (unpackBits q data).length = q := by simp [unpackBits]

theorem unpackBits_get (q : Nat) (data : List Byte) {k : Nat} (hk : k < q) :
    (unpackBits q data)[k]? = some ((data.getD (k / 8) 0).getLsbD (k % 8)) := by simp [unpackBits, hk]

/-! ### Words -/

@[simp] theorem packWords_length (ws : List Word) : (packWords ws).length = 2 * ws.length := by
  induction ws with
  | nil => rfl
  | cons w ws ih => simp only [packWords, List.length_cons, ih]; omega

/-- Word `k` of a word read is data bytes `2k` (high) and `2k + 1` (low) (R128). -/
theorem packWords_get (ws : List Word) (k : Nat) :
    (packWords ws)[2 * k]? = ws[k]?.map hi ∧ (packWords ws)[2 * k + 1]? = ws[k]?.map lo := by
  induction ws generalizing k with
  | nil => simp [packWords]
  | cons w ws ih =>
    cases k with
    | zero => simp [packWords]
    | succ k =>
      have := ih k
      simpa [packWords, show 2 * (k + 1) = 2 * k + 1 + 1 by omega] using this

@[simp] theorem unpackWords_length (q : Nat) (data : List Byte) : (unpackWords q data).length = q := by simp [unpackWords]

theorem unpackWords_get (q : Nat) (data : List Byte) {k : Nat} (hk : k < q) :
    (unpackWords q data)[k]? = some (word (data.getD (2 * k) 0) (data.getD (2 * k + 1) 0)) := by simp [unpackWords, hk]

end Sys2Proof.Machine
end

