-- ==== Sys2Proof/Laws/PerInstr.lean ====
section
/-! SUPPORT. Facts about every instruction as syntax, one lemma per constructor. `FrameSize`: a well-formed request encodes to a frame
of 4 to 256 bytes (R51). -/

namespace Sys2Proof.Laws

/-- Signing adds the two CRC bytes (R63, R68). -/
theorem sign_length (s : List Byte) : (Machine.sign s).length = s.length + 2 := by simp [Machine.sign, Machine.crcField]

/-- A well-formed Q8 payload fits the buffer. -/
theorem encodeQ8_length {b : Q8} (h : b.wf = true) : (encodeQ8 b).length ≤ 252 := by
  cases b with
  | fit f1 f2 => simp [encodeQ8]
  | misfit p => simp only [Q8.wf, Bool.and_eq_true, decide_eq_true_eq] at h; exact h.2

/-- A well-formed QM payload fits the buffer. -/
theorem encodeQM_length {b : QM} (h : b.wf = true) : (encodeQM b).length ≤ 252 := by
  cases b with
  | fit s q data => exact of_decide_eq_true h
  | misfit p => simp only [QM.wf, Bool.and_eq_true, decide_eq_true_eq] at h; exact h.2

/-- The frame of a well-formed request has 4 to 256 bytes. -/
def FrameSize.Statement (i : Instr) : Prop := i.wf = true → 4 ≤ (encode i).length ∧ (encode i).length ≤ 256

/-- Address, function code, payload and CRC. -/
theorem frame_length (id fc : Byte) {p : List Byte} (h : p.length ≤ 252) :
    4 ≤ (Machine.sign (id :: fc :: p)).length ∧ (Machine.sign (id :: fc :: p)).length ≤ 256 := by
  simp only [sign_length, List.length_cons]
  omega

theorem FrameSize.rc (id : Byte) (b : Q8) : FrameSize.Statement (.rc id b) := fun h => frame_length id _ (encodeQ8_length h)
theorem FrameSize.rdi (id : Byte) (b : Q8) : FrameSize.Statement (.rdi id b) := fun h => frame_length id _ (encodeQ8_length h)
theorem FrameSize.rhr (id : Byte) (b : Q8) : FrameSize.Statement (.rhr id b) := fun h => frame_length id _ (encodeQ8_length h)
theorem FrameSize.rir (id : Byte) (b : Q8) : FrameSize.Statement (.rir id b) := fun h => frame_length id _ (encodeQ8_length h)
theorem FrameSize.wsc (id : Byte) (b : Q8) : FrameSize.Statement (.wsc id b) := fun h => frame_length id _ (encodeQ8_length h)
theorem FrameSize.wsr (id : Byte) (b : Q8) : FrameSize.Statement (.wsr id b) := fun h => frame_length id _ (encodeQ8_length h)
theorem FrameSize.wmc (id : Byte) (b : QM) : FrameSize.Statement (.wmc id b) := fun h => frame_length id _ (encodeQM_length h)
theorem FrameSize.wmr (id : Byte) (b : QM) : FrameSize.Statement (.wmr id b) := fun h => frame_length id _ (encodeQM_length h)

theorem FrameSize.illegal (id fc : Byte) (p : List Byte) : FrameSize.Statement (.illegal id fc p) := fun h => by
  simp only [Instr.wf, Bool.and_eq_true, decide_eq_true_eq] at h
  exact frame_length id fc h.2

end Sys2Proof.Laws
end

