-- ==== Sys2Proof/Laws/Decode.lean ====
section
/-! SUPPORT. What the decoder reads: the function table, the shape of a frame it accepts, and the fields of a decoded payload. -/

namespace Sys2Proof
open Machine (word sign bufCap)

/-- Each function's code selects it (R53, R69). -/
theorem functionOf_code (f : Fn) : functionOf f.code = some f := by cases f <;> decide

/-- Only its own code selects a function. -/
theorem code_of_functionOf {fc : Byte} {f : Fn} (h : functionOf fc = some f) : fc = f.code := by
  revert h; revert f; revert fc; decide

/-- The codes that select no function are those outside R53's eight. -/
theorem functionOf_eq_none {fc : Byte} : functionOf fc = none ↔ functionCodes.contains fc = false := by
  revert fc; decide

/-- A signed frame decodes by its address, function code and payload. -/
theorem decode_sign (id fc : Byte) {p : List Byte} (h : p.length ≤ 252) :
    decode (sign (id :: fc :: p)) = .ok (decodeBody id fc p) := by
  have hl := Laws.sign_length (id :: fc :: p)
  simp only [List.length_cons] at hl
  simp only [decode, hl]
  rw [if_neg (by omega), if_neg (by simp only [bufCap]; omega)]
  simp [sign, List.getD_eq_getElem?_getD]

/-- A frame that decodes is an address byte, a function code, a payload of at most 252 bytes and two more bytes. -/
theorem decode_cases {frame : List Byte} {i : Instr} (h : decode frame = .ok i) :
    ∃ id fc p c1 c2, frame = id :: fc :: (p ++ [c1, c2]) ∧ i = decodeBody id fc p ∧ p.length ≤ 252 := by
  simp only [decode] at h
  split at h
  · simp at h
  split at h
  · simp at h
  rename_i h1 h2
  have hcap : bufCap = 256 := rfl
  obtain _ | ⟨id, _ | ⟨fc, l⟩⟩ := frame
  · simp at h1
  · simp at h1
  simp only [List.length_cons] at h1 h2
  refine ⟨id, fc, l.take (l.length - 2), l[l.length - 2]'(by omega), l[l.length - 1]'(by omega), ?_, ?_, ?_⟩
  · have e : l.drop (l.length - 2) = [l[l.length - 2]'(by omega), l[l.length - 1]'(by omega)] := by
      rw [List.drop_eq_getElem_cons (by omega), List.drop_eq_getElem_cons (by omega), List.drop_eq_nil_of_le (by omega)]
      simp only [List.cons.injEq, and_true, true_and]
      congr 1
      omega
    rw [← e, List.take_append_drop]
  · rw [← Except.ok.inj h]
    have e : l.length + 1 + 1 - 2 = (l.length - 2) + 1 + 1 := by omega
    simp only [List.getD_cons_zero, List.getD_cons_succ, List.length_cons, e, List.take_succ_cons, List.drop_succ_cons, List.drop_zero]
  · simp only [List.length_take]
    omega

/-- The two fields of a decoded Q8 payload, whatever its length (R54, R112). -/
theorem decodeQ8_fields (p : List Byte) :
    (decodeQ8 p).start = word (p.getD 0 0) (p.getD 1 0) ∧ (decodeQ8 p).field2 = word (p.getD 2 0) (p.getD 3 0) ∧
      (decodeQ8 p).len = p.length + 4 := by
  match p with
  | [] | [_] | [_, _] | [_, _, _] | [_, _, _, _] => exact ⟨rfl, rfl, rfl⟩
  | _ :: _ :: _ :: _ :: _ :: _ => exact ⟨rfl, rfl, rfl⟩

/-- The fields of a decoded QM payload, whatever its length (R55, R112). -/
theorem decodeQM_fields (p : List Byte) :
    (decodeQM p).start = word (p.getD 0 0) (p.getD 1 0) ∧ (decodeQM p).qty = word (p.getD 2 0) (p.getD 3 0) ∧
      (decodeQM p).len = p.length + 4 := by
  match p with
  | [] | [_] | [_, _] | [_, _, _] | [_, _, _, _] => exact ⟨rfl, rfl, rfl⟩
  | _ :: _ :: _ :: _ :: _ :: _ =>
    simp only [decodeQM]
    split <;> exact ⟨rfl, rfl, rfl⟩

end Sys2Proof
end

