-- ==== Sys2Proof/Laws/Memory.lean ====
section
/-! SUPPORT. The laws of the sparse memory: read after write, the canonical form kept, and the groups of cells. -/

namespace Sys2Proof.Machine

variable {α : Type}

@[simp] theorem Memory.read_nil (a : Nat) : Memory.read ([] : Memory α) a = none := rfl

theorem Memory.read_cons (k : Nat) (v : α) (m : Memory α) (a : Nat) :
    Memory.read ((k, v) :: m) a = if k = a then some v else Memory.read m a := rfl

/-- Reading a cell after writing it gives the value written; every other cell is as before. -/
theorem Memory.read_write (m : Memory α) (a b : Nat) (v : α) :
    Memory.read (Memory.write m a v) b = if a = b then some v else Memory.read m b := by
  induction m with
  | nil => simp [Memory.write, Memory.read]
  | cons e m ih =>
    obtain ⟨k, w⟩ := e
    simp only [Memory.write]
    split
    · rename_i h
      simp only [Memory.read, ih]
      split
      · rename_i hk
        subst hk
        rw [if_neg (by omega)]
      · rfl
    · split
      · rename_i h
        subst h
        by_cases hb : k = b <;> simp [Memory.read, hb]
      · simp [Memory.read]

@[simp] theorem Memory.read_write_same (m : Memory α) (a : Nat) (v : α) :
    Memory.read (Memory.write m a v) a = some v := by simp [Memory.read_write]

theorem Memory.read_write_other (m : Memory α) {a b : Nat} (v : α) (h : a ≠ b) :
    Memory.read (Memory.write m a v) b = Memory.read m b := by simp [Memory.read_write, h]

/-- Which indexes a memory lists after a write. -/
theorem Memory.mem_index_write (m : Memory α) (a : Nat) (v : α) (k : Nat) :
    k ∈ (Memory.write m a v).map Prod.fst ↔ k = a ∨ k ∈ m.map Prod.fst := by
  induction m with
  | nil => simp [Memory.write]
  | cons e m ih =>
    obtain ⟨i, w⟩ := e
    simp only [Memory.write]
    split
    · simp only [List.map_cons, List.mem_cons, ih]; tauto
    · split
      · rename_i h; subst h; simp
      · simp

/-- A write keeps the canonical form. -/
theorem Memory.write_wf {m : Memory α} (h : Memory.wf m) (a : Nat) (v : α) : Memory.wf (Memory.write m a v) := by
  induction m with
  | nil => simp [Memory.write, Memory.wf]
  | cons e m ih =>
    obtain ⟨k, w⟩ := e
    simp only [Memory.wf, List.map_cons, List.pairwise_cons] at h ih
    simp only [Memory.write]
    split
    · rename_i hk
      simp only [Memory.wf, List.map_cons, List.pairwise_cons]
      refine ⟨fun b hb => ?_, ih h.2⟩
      rcases (Memory.mem_index_write m a v b).1 hb with rfl | hb
      · exact hk
      · exact h.1 b hb
    · split
      · rename_i hk; subst hk
        simpa [Memory.wf] using h
      · simp only [Memory.wf, List.map_cons, List.pairwise_cons, List.mem_cons]
        refine ⟨?_, h.1, h.2⟩
        rintro b (rfl | hb)
        · omega
        · have := h.1 b hb; omega

theorem Memory.writeN_wf {m : Memory α} (h : Memory.wf m) (a : Nat) (vs : List α) : Memory.wf (Memory.writeN m a vs) := by
  induction vs generalizing m a with
  | nil => exact h
  | cons v vs ih => exact ih (Memory.write_wf h a v) (a + 1)

theorem Memory.ofArray_wf (cells : List α) : Memory.wf (Memory.ofArray cells) :=
  Memory.writeN_wf (by simp [Memory.wf]) 0 cells

theorem Memory.storeN_wf {m m' : Memory α} {a : Nat} {vs : List α} (h : Memory.wf m)
    (hs : Memory.storeN m a vs = some m') : Memory.wf m' := by
  induction vs generalizing m a with
  | nil => simp only [Memory.storeN, Option.some.injEq] at hs; exact hs ▸ h
  | cons v vs ih =>
    simp only [Memory.storeN] at hs
    split at hs
    · exact ih (Memory.write_wf h a v) hs
    · simp at hs

/-- What a group of writes leaves at each index. -/
theorem Memory.read_writeN (m : Memory α) (a : Nat) (vs : List α) (b : Nat) :
    Memory.read (Memory.writeN m a vs) b =
      if a ≤ b ∧ b < a + vs.length then vs[b - a]? else Memory.read m b := by
  induction vs generalizing m a with
  | nil =>
    simp only [Memory.writeN, List.length_nil]
    rw [if_neg (by omega)]
  | cons v vs ih =>
    simp only [Memory.writeN, ih, List.length_cons]
    by_cases h1 : a + 1 ≤ b ∧ b < a + 1 + vs.length
    · have e : b - a = (b - (a + 1)) + 1 := by omega
      rw [if_pos h1, if_pos (by omega), e, List.getElem?_cons_succ]
    · rw [if_neg h1, Memory.read_write]
      by_cases h2 : a = b
      · subst h2
        simp
      · rw [if_neg h2, if_neg (by omega)]

theorem Memory.read_writeN_in (m : Memory α) {a b : Nat} {vs : List α} (h1 : a ≤ b) (h2 : b < a + vs.length) :
    Memory.read (Memory.writeN m a vs) b = vs[b - a]? := by rw [Memory.read_writeN, if_pos ⟨h1, h2⟩]

theorem Memory.read_writeN_out (m : Memory α) {a b : Nat} {vs : List α} (h : b < a ∨ a + vs.length ≤ b) :
    Memory.read (Memory.writeN m a vs) b = Memory.read m b := by rw [Memory.read_writeN, if_neg (by omega)]

/-- The indexes a memory lists after a group of writes. -/
theorem Memory.mem_index_writeN (m : Memory α) (a : Nat) (vs : List α) (k : Nat) :
    k ∈ (Memory.writeN m a vs).map Prod.fst ↔ (a ≤ k ∧ k < a + vs.length) ∨ k ∈ m.map Prod.fst := by
  induction vs generalizing m a with
  | nil =>
    simp only [Memory.writeN, List.length_nil]
    constructor
    · exact Or.inr
    · rintro (h | h)
      · omega
      · exact h
  | cons v vs ih =>
    simp only [Memory.writeN, ih, Memory.mem_index_write, List.length_cons]
    constructor
    · rintro (h | rfl | h)
      · exact .inl (by omega)
      · exact .inl (by omega)
      · exact .inr h
    · rintro (h | h)
      · by_cases e : k = a
        · exact .inr (.inl e)
        · exact .inl (by omega)
      · exact .inr (.inr h)

/-- A bound array's cell `a` is the array's element `a` (R162). -/
theorem Memory.read_ofArray (cells : List α) (a : Nat) : Memory.read (Memory.ofArray cells) a = cells[a]? := by
  rw [Memory.ofArray, Memory.read_writeN]
  split
  · rfl
  · rename_i h
    rw [List.getElem?_eq_none (by omega)]
    rfl

/-- A group write to provided cells succeeds and is the group write. -/
theorem Memory.storeN_of_provided {m : Memory α} {a : Nat} {vs : List α}
    (h : ∀ k, k < vs.length → (Memory.read m (a + k)).isSome = true) :
    Memory.storeN m a vs = some (Memory.writeN m a vs) := by
  induction vs generalizing m a with
  | nil => rfl
  | cons v vs ih =>
    have h0 := h 0 (by simp)
    obtain ⟨w, hw⟩ := Option.isSome_iff_exists.1 h0
    simp only [Nat.add_zero] at hw
    simp only [Memory.storeN, hw, Memory.writeN]
    refine ih fun k hk => ?_
    rw [Memory.read_write_other m v (by omega)]
    have := h (k + 1) (by simpa using hk)
    rwa [show a + (k + 1) = a + 1 + k by omega] at this

/-- A group write succeeds only where every cell is provided, and then it is the group write. -/
theorem Memory.storeN_some {m m' : Memory α} {a : Nat} {vs : List α} (h : Memory.storeN m a vs = some m') :
    m' = Memory.writeN m a vs ∧ ∀ k, k < vs.length → (Memory.read m (a + k)).isSome = true := by
  induction vs generalizing m a with
  | nil => simp only [Memory.storeN, Option.some.injEq] at h; exact ⟨h.symm, fun k hk => by simp at hk⟩
  | cons v vs ih =>
    simp only [Memory.storeN] at h
    split at h
    · rename_i w hw
      obtain ⟨e, hp⟩ := ih h
      refine ⟨e, fun k hk => ?_⟩
      cases k with
      | zero => simp [hw]
      | succ k =>
        have := hp k (by simpa using hk)
        rwa [Memory.read_write_other m v (by omega), show a + 1 + k = a + (k + 1) by omega] at this
    · simp at h

/-- A group read in full: the cells in ascending order (R41). -/
theorem Memory.readN_eq_some_iff (m : Memory α) (a n : Nat) (vs : List α) :
    Memory.readN m a n = some vs ↔ vs.length = n ∧ ∀ k, k < n → Memory.read m (a + k) = vs[k]? := by
  induction n generalizing a vs with
  | zero =>
    simp only [Memory.readN, Option.some.injEq]
    constructor
    · rintro rfl; exact ⟨rfl, fun k hk => by omega⟩
    · rintro ⟨h, -⟩; exact (List.length_eq_zero_iff.1 h).symm
  | succ n ih =>
    simp only [Memory.readN]
    constructor
    · intro h
      split at h
      · rename_i v ws h1 h2
        simp only [Option.some.injEq] at h
        subst h
        obtain ⟨hl, hr⟩ := (ih (a + 1) ws).1 h2
        refine ⟨by simp [hl], fun k hk => ?_⟩
        cases k with
        | zero => simpa using h1
        | succ k =>
          have := hr k (by omega)
          rwa [show a + 1 + k = a + (k + 1) by omega] at this
      · simp at h
    · rintro ⟨hl, hr⟩
      obtain _ | ⟨v, ws⟩ := vs
      · simp at hl
      · have h1 : Memory.read m a = some v := by simpa using hr 0 (by omega)
        have h2 : Memory.readN m (a + 1) n = some ws := by
          refine (ih (a + 1) ws).2 ⟨by simpa using hl, fun k hk => ?_⟩
          have := hr (k + 1) (by omega)
          rwa [show a + 1 + k = a + (k + 1) by omega]
        simp [h1, h2]

/-- A group read fails only where a cell has no value. -/
theorem Memory.readN_eq_none_iff (m : Memory α) (a n : Nat) :
    Memory.readN m a n = none ↔ ∃ k, k < n ∧ Memory.read m (a + k) = none := by
  induction n generalizing a with
  | zero => simp [Memory.readN]
  | succ n ih =>
    simp only [Memory.readN]
    constructor
    · intro h
      cases h1 : Memory.read m a with
      | none => exact ⟨0, by omega, h1⟩
      | some v =>
        cases h2 : Memory.readN m (a + 1) n with
        | none =>
          obtain ⟨k, hk, hn⟩ := (ih (a + 1)).1 h2
          exact ⟨k + 1, by omega, by rwa [show a + (k + 1) = a + 1 + k by omega]⟩
        | some ws => simp [h1, h2] at h
    · rintro ⟨k, hk, hn⟩
      cases k with
      | zero => simp only [Nat.add_zero] at hn; simp [hn]
      | succ k =>
        have : Memory.readN m (a + 1) n = none :=
          (ih (a + 1)).2 ⟨k, by omega, by rwa [show a + 1 + k = a + (k + 1) by omega]⟩
        simp [this]

/-- Group reads agree where the cells do. -/
theorem Memory.readN_congr {m m' : Memory α} {a n : Nat}
    (h : ∀ k, k < n → Memory.read m (a + k) = Memory.read m' (a + k)) : Memory.readN m a n = Memory.readN m' a n := by
  induction n generalizing a with
  | zero => rfl
  | succ n ih =>
    have h0 := h 0 (by omega)
    simp only [Nat.add_zero] at h0
    have h1 : Memory.readN m (a + 1) n = Memory.readN m' (a + 1) n := by
      refine ih fun k hk => ?_
      have := h (k + 1) (by omega)
      rwa [show a + (k + 1) = a + 1 + k by omega] at this
    simp only [Memory.readN, h0, h1]

end Sys2Proof.Machine
end

