-- ==== Sys2Proof/Laws/State.lean ====
section
/-! SUPPORT. One lemma per field per update of the state, each true by rfl, so that no later proof unfolds a record update. -/

namespace Sys2Proof.Machine

variable (s : State)

/-! ### writeBuf -/

@[simp] theorem writeBuf_par (a : Nat) (bytes : List Byte) : (writeBuf a bytes s).par = s.par := rfl
@[simp] theorem writeBuf_phase (a : Nat) (bytes : List Byte) : (writeBuf a bytes s).phase = s.phase := rfl
@[simp] theorem writeBuf_len (a : Nat) (bytes : List Byte) : (writeBuf a bytes s).len = s.len := rfl
@[simp] theorem writeBuf_conf (a : Nat) (bytes : List Byte) : (writeBuf a bytes s).conf = s.conf := rfl
@[simp] theorem writeBuf_tMark (a : Nat) (bytes : List Byte) : (writeBuf a bytes s).tMark = s.tMark := rfl
@[simp] theorem writeBuf_req (a : Nat) (bytes : List Byte) : (writeBuf a bytes s).req = s.req := rfl
@[simp] theorem writeBuf_quietOk (a : Nat) (bytes : List Byte) : (writeBuf a bytes s).quietOk = s.quietOk := rfl
@[simp] theorem writeBuf_exc (a : Nat) (bytes : List Byte) : (writeBuf a bytes s).exc = s.exc := rfl
@[simp] theorem writeBuf_respLen (a : Nat) (bytes : List Byte) : (writeBuf a bytes s).respLen = s.respLen := rfl
@[simp] theorem writeBuf_buf (a : Nat) (bytes : List Byte) : (writeBuf a bytes s).buf = Memory.writeN s.buf a bytes := rfl
@[simp] theorem writeBuf_txEn (a : Nat) (bytes : List Byte) : (writeBuf a bytes s).txEn = s.txEn := rfl
@[simp] theorem writeBuf_res (a : Nat) (bytes : List Byte) : (writeBuf a bytes s).res = s.res := rfl
@[simp] theorem writeBuf_store (a : Nat) (bytes : List Byte) : (writeBuf a bytes s).store = s.store := rfl
@[simp] theorem writeBuf_rxq (a : Nat) (bytes : List Byte) : (writeBuf a bytes s).rxq = s.rxq := rfl
@[simp] theorem writeBuf_tx (a : Nat) (bytes : List Byte) : (writeBuf a bytes s).tx = s.tx := rfl
@[simp] theorem writeBuf_txBusy (a : Nat) (bytes : List Byte) : (writeBuf a bytes s).txBusy = s.txBusy := rfl
@[simp] theorem writeBuf_now (a : Nat) (bytes : List Byte) : (writeBuf a bytes s).now = s.now := rfl
@[simp] theorem writeBuf_script (a : Nat) (bytes : List Byte) : (writeBuf a bytes s).script = s.script := rfl
@[simp] theorem writeBuf_waited (a : Nat) (bytes : List Byte) : (writeBuf a bytes s).waited = s.waited := rfl
@[simp] theorem writeBuf_free (a : Nat) (bytes : List Byte) : (writeBuf a bytes s).free = s.free := rfl

/-! ### transmit -/

@[simp] theorem transmit_par (bytes : List Byte) : (transmit bytes s).par = s.par := rfl
@[simp] theorem transmit_phase (bytes : List Byte) : (transmit bytes s).phase = s.phase := rfl
@[simp] theorem transmit_len (bytes : List Byte) : (transmit bytes s).len = s.len := rfl
@[simp] theorem transmit_conf (bytes : List Byte) : (transmit bytes s).conf = s.conf := rfl
@[simp] theorem transmit_tMark (bytes : List Byte) : (transmit bytes s).tMark = s.tMark := rfl
@[simp] theorem transmit_req (bytes : List Byte) : (transmit bytes s).req = s.req := rfl
@[simp] theorem transmit_quietOk (bytes : List Byte) : (transmit bytes s).quietOk = s.quietOk := rfl
@[simp] theorem transmit_exc (bytes : List Byte) : (transmit bytes s).exc = s.exc := rfl
@[simp] theorem transmit_respLen (bytes : List Byte) : (transmit bytes s).respLen = s.respLen := rfl
@[simp] theorem transmit_buf (bytes : List Byte) : (transmit bytes s).buf = s.buf := rfl
@[simp] theorem transmit_txEn (bytes : List Byte) : (transmit bytes s).txEn = s.txEn := rfl
@[simp] theorem transmit_res (bytes : List Byte) : (transmit bytes s).res = s.res := rfl
@[simp] theorem transmit_store (bytes : List Byte) : (transmit bytes s).store = s.store := rfl
@[simp] theorem transmit_rxq (bytes : List Byte) : (transmit bytes s).rxq = s.rxq := rfl
@[simp] theorem transmit_tx (bytes : List Byte) : (transmit bytes s).tx = s.tx ++ bytes := rfl
@[simp] theorem transmit_txBusy (bytes : List Byte) : (transmit bytes s).txBusy = (s.txBusy || !bytes.isEmpty) := rfl
@[simp] theorem transmit_now (bytes : List Byte) : (transmit bytes s).now = s.now := rfl
@[simp] theorem transmit_script (bytes : List Byte) : (transmit bytes s).script = s.script := rfl
@[simp] theorem transmit_waited (bytes : List Byte) : (transmit bytes s).waited = s.waited := rfl
@[simp] theorem transmit_free (bytes : List Byte) : (transmit bytes s).free = s.free := rfl

/-! ### lineDone -/

@[simp] theorem lineDone_par : (lineDone s).par = s.par := rfl
@[simp] theorem lineDone_phase : (lineDone s).phase = s.phase := rfl
@[simp] theorem lineDone_len : (lineDone s).len = s.len := rfl
@[simp] theorem lineDone_conf : (lineDone s).conf = s.conf := rfl
@[simp] theorem lineDone_tMark : (lineDone s).tMark = s.tMark := rfl
@[simp] theorem lineDone_req : (lineDone s).req = s.req := rfl
@[simp] theorem lineDone_quietOk : (lineDone s).quietOk = s.quietOk := rfl
@[simp] theorem lineDone_exc : (lineDone s).exc = s.exc := rfl
@[simp] theorem lineDone_respLen : (lineDone s).respLen = s.respLen := rfl
@[simp] theorem lineDone_buf : (lineDone s).buf = s.buf := rfl
@[simp] theorem lineDone_txEn : (lineDone s).txEn = s.txEn := rfl
@[simp] theorem lineDone_res : (lineDone s).res = s.res := rfl
@[simp] theorem lineDone_store : (lineDone s).store = s.store := rfl
@[simp] theorem lineDone_rxq : (lineDone s).rxq = s.rxq := rfl
@[simp] theorem lineDone_tx : (lineDone s).tx = s.tx := rfl
@[simp] theorem lineDone_txBusy : (lineDone s).txBusy = false := rfl
@[simp] theorem lineDone_now : (lineDone s).now = s.now := rfl
@[simp] theorem lineDone_script : (lineDone s).script = s.script := rfl
@[simp] theorem lineDone_waited : (lineDone s).waited = s.waited := rfl
@[simp] theorem lineDone_free : (lineDone s).free = s.free := rfl

/-! ### advance -/

@[simp] theorem advance_par : (advance s).par = s.par := rfl
@[simp] theorem advance_phase : (advance s).phase = s.phase := rfl
@[simp] theorem advance_len : (advance s).len = s.len := rfl
@[simp] theorem advance_conf : (advance s).conf = s.conf := rfl
@[simp] theorem advance_tMark : (advance s).tMark = s.tMark := rfl
@[simp] theorem advance_req : (advance s).req = s.req := rfl
@[simp] theorem advance_quietOk : (advance s).quietOk = s.quietOk := rfl
@[simp] theorem advance_exc : (advance s).exc = s.exc := rfl
@[simp] theorem advance_respLen : (advance s).respLen = s.respLen := rfl
@[simp] theorem advance_buf : (advance s).buf = s.buf := rfl
@[simp] theorem advance_txEn : (advance s).txEn = s.txEn := rfl
@[simp] theorem advance_res : (advance s).res = s.res := rfl
@[simp] theorem advance_store : (advance s).store = s.store := rfl
@[simp] theorem advance_rxq : (advance s).rxq = s.rxq := rfl
@[simp] theorem advance_tx : (advance s).tx = s.tx := rfl
@[simp] theorem advance_txBusy : (advance s).txBusy = s.txBusy := rfl
@[simp] theorem advance_now : (advance s).now = wrapTime s.par (s.now + 1) := rfl
@[simp] theorem advance_script : (advance s).script = s.script := rfl
@[simp] theorem advance_waited : (advance s).waited = s.waited := rfl
@[simp] theorem advance_free : (advance s).free = s.free := rfl

/-! ### outcome -/

@[simp] theorem outcome_par (fc : Byte) (e : BitVec 3) (start qty : Word) : (outcome fc e start qty s).par = s.par := rfl
@[simp] theorem outcome_phase (fc : Byte) (e : BitVec 3) (start qty : Word) : (outcome fc e start qty s).phase = s.phase := rfl
@[simp] theorem outcome_len (fc : Byte) (e : BitVec 3) (start qty : Word) : (outcome fc e start qty s).len = s.len := rfl
@[simp] theorem outcome_conf (fc : Byte) (e : BitVec 3) (start qty : Word) : (outcome fc e start qty s).conf = s.conf := rfl
@[simp] theorem outcome_tMark (fc : Byte) (e : BitVec 3) (start qty : Word) : (outcome fc e start qty s).tMark = s.tMark := rfl
@[simp] theorem outcome_req (fc : Byte) (e : BitVec 3) (start qty : Word) : (outcome fc e start qty s).req = s.req := rfl
@[simp] theorem outcome_quietOk (fc : Byte) (e : BitVec 3) (start qty : Word) : (outcome fc e start qty s).quietOk = s.quietOk := rfl
@[simp] theorem outcome_exc (fc : Byte) (e : BitVec 3) (start qty : Word) : (outcome fc e start qty s).exc = s.exc := rfl
@[simp] theorem outcome_respLen (fc : Byte) (e : BitVec 3) (start qty : Word) : (outcome fc e start qty s).respLen = s.respLen := rfl
@[simp] theorem outcome_buf (fc : Byte) (e : BitVec 3) (start qty : Word) : (outcome fc e start qty s).buf = s.buf := rfl
@[simp] theorem outcome_txEn (fc : Byte) (e : BitVec 3) (start qty : Word) : (outcome fc e start qty s).txEn = s.txEn := rfl
@[simp] theorem outcome_res (fc : Byte) (e : BitVec 3) (start qty : Word) : (outcome fc e start qty s).res = ⟨fc, e, start, qty, true⟩ := rfl
@[simp] theorem outcome_store (fc : Byte) (e : BitVec 3) (start qty : Word) : (outcome fc e start qty s).store = s.store := rfl
@[simp] theorem outcome_rxq (fc : Byte) (e : BitVec 3) (start qty : Word) : (outcome fc e start qty s).rxq = s.rxq := rfl
@[simp] theorem outcome_tx (fc : Byte) (e : BitVec 3) (start qty : Word) : (outcome fc e start qty s).tx = s.tx := rfl
@[simp] theorem outcome_txBusy (fc : Byte) (e : BitVec 3) (start qty : Word) : (outcome fc e start qty s).txBusy = s.txBusy := rfl
@[simp] theorem outcome_now (fc : Byte) (e : BitVec 3) (start qty : Word) : (outcome fc e start qty s).now = s.now := rfl
@[simp] theorem outcome_script (fc : Byte) (e : BitVec 3) (start qty : Word) : (outcome fc e start qty s).script = s.script := rfl
@[simp] theorem outcome_waited (fc : Byte) (e : BitVec 3) (start qty : Word) : (outcome fc e start qty s).waited = s.waited := rfl
@[simp] theorem outcome_free (fc : Byte) (e : BitVec 3) (start qty : Word) : (outcome fc e start qty s).free = s.free := rfl

/-! ### clearEvent -/

@[simp] theorem clearEvent_par : (clearEvent s).par = s.par := rfl
@[simp] theorem clearEvent_phase : (clearEvent s).phase = s.phase := rfl
@[simp] theorem clearEvent_len : (clearEvent s).len = s.len := rfl
@[simp] theorem clearEvent_conf : (clearEvent s).conf = s.conf := rfl
@[simp] theorem clearEvent_tMark : (clearEvent s).tMark = s.tMark := rfl
@[simp] theorem clearEvent_req : (clearEvent s).req = s.req := rfl
@[simp] theorem clearEvent_quietOk : (clearEvent s).quietOk = s.quietOk := rfl
@[simp] theorem clearEvent_exc : (clearEvent s).exc = s.exc := rfl
@[simp] theorem clearEvent_respLen : (clearEvent s).respLen = s.respLen := rfl
@[simp] theorem clearEvent_buf : (clearEvent s).buf = s.buf := rfl
@[simp] theorem clearEvent_txEn : (clearEvent s).txEn = s.txEn := rfl
@[simp] theorem clearEvent_res : (clearEvent s).res = { s.res with valid := false } := rfl
@[simp] theorem clearEvent_store : (clearEvent s).store = s.store := rfl
@[simp] theorem clearEvent_rxq : (clearEvent s).rxq = s.rxq := rfl
@[simp] theorem clearEvent_tx : (clearEvent s).tx = s.tx := rfl
@[simp] theorem clearEvent_txBusy : (clearEvent s).txBusy = s.txBusy := rfl
@[simp] theorem clearEvent_now : (clearEvent s).now = s.now := rfl
@[simp] theorem clearEvent_script : (clearEvent s).script = s.script := rfl
@[simp] theorem clearEvent_waited : (clearEvent s).waited = s.waited := rfl
@[simp] theorem clearEvent_free : (clearEvent s).free = s.free := rfl

/-! ### latch -/

@[simp] theorem latch_par (id fc : Byte) (start qty : Word) : (latch id fc start qty s).par = s.par := rfl
@[simp] theorem latch_phase (id fc : Byte) (start qty : Word) : (latch id fc start qty s).phase = s.phase := rfl
@[simp] theorem latch_len (id fc : Byte) (start qty : Word) : (latch id fc start qty s).len = s.len := rfl
@[simp] theorem latch_conf (id fc : Byte) (start qty : Word) : (latch id fc start qty s).conf = s.conf := rfl
@[simp] theorem latch_tMark (id fc : Byte) (start qty : Word) : (latch id fc start qty s).tMark = s.tMark := rfl
@[simp] theorem latch_req (id fc : Byte) (start qty : Word) : (latch id fc start qty s).req = ⟨id, fc, start, qty⟩ := rfl
@[simp] theorem latch_quietOk (id fc : Byte) (start qty : Word) : (latch id fc start qty s).quietOk = s.quietOk := rfl
@[simp] theorem latch_exc (id fc : Byte) (start qty : Word) : (latch id fc start qty s).exc = s.exc := rfl
@[simp] theorem latch_respLen (id fc : Byte) (start qty : Word) : (latch id fc start qty s).respLen = s.respLen := rfl
@[simp] theorem latch_buf (id fc : Byte) (start qty : Word) : (latch id fc start qty s).buf = s.buf := rfl
@[simp] theorem latch_txEn (id fc : Byte) (start qty : Word) : (latch id fc start qty s).txEn = s.txEn := rfl
@[simp] theorem latch_res (id fc : Byte) (start qty : Word) : (latch id fc start qty s).res = s.res := rfl
@[simp] theorem latch_store (id fc : Byte) (start qty : Word) : (latch id fc start qty s).store = s.store := rfl
@[simp] theorem latch_rxq (id fc : Byte) (start qty : Word) : (latch id fc start qty s).rxq = s.rxq := rfl
@[simp] theorem latch_tx (id fc : Byte) (start qty : Word) : (latch id fc start qty s).tx = s.tx := rfl
@[simp] theorem latch_txBusy (id fc : Byte) (start qty : Word) : (latch id fc start qty s).txBusy = s.txBusy := rfl
@[simp] theorem latch_now (id fc : Byte) (start qty : Word) : (latch id fc start qty s).now = s.now := rfl
@[simp] theorem latch_script (id fc : Byte) (start qty : Word) : (latch id fc start qty s).script = s.script := rfl
@[simp] theorem latch_waited (id fc : Byte) (start qty : Word) : (latch id fc start qty s).waited = s.waited := rfl
@[simp] theorem latch_free (id fc : Byte) (start qty : Word) : (latch id fc start qty s).free = s.free := rfl

/-! ### raiseException -/

@[simp] theorem raiseException_par (c : ExcCode) : (raiseException c s).par = s.par := rfl
@[simp] theorem raiseException_phase (c : ExcCode) : (raiseException c s).phase = s.phase := rfl
@[simp] theorem raiseException_len (c : ExcCode) : (raiseException c s).len = s.len := rfl
@[simp] theorem raiseException_conf (c : ExcCode) : (raiseException c s).conf = s.conf := rfl
@[simp] theorem raiseException_tMark (c : ExcCode) : (raiseException c s).tMark = s.tMark := rfl
@[simp] theorem raiseException_req (c : ExcCode) : (raiseException c s).req = s.req := rfl
@[simp] theorem raiseException_quietOk (c : ExcCode) : (raiseException c s).quietOk = s.quietOk := rfl
@[simp] theorem raiseException_exc (c : ExcCode) : (raiseException c s).exc = c.code := rfl
@[simp] theorem raiseException_respLen (c : ExcCode) : (raiseException c s).respLen = 3#9 := rfl
@[simp] theorem raiseException_buf (c : ExcCode) : (raiseException c s).buf = Memory.writeN s.buf 1 [s.req.fc ||| 0x80#8, c.code.setWidth 8] := rfl
@[simp] theorem raiseException_txEn (c : ExcCode) : (raiseException c s).txEn = s.txEn := rfl
@[simp] theorem raiseException_res (c : ExcCode) : (raiseException c s).res = s.res := rfl
@[simp] theorem raiseException_store (c : ExcCode) : (raiseException c s).store = s.store := rfl
@[simp] theorem raiseException_rxq (c : ExcCode) : (raiseException c s).rxq = s.rxq := rfl
@[simp] theorem raiseException_tx (c : ExcCode) : (raiseException c s).tx = s.tx := rfl
@[simp] theorem raiseException_txBusy (c : ExcCode) : (raiseException c s).txBusy = s.txBusy := rfl
@[simp] theorem raiseException_now (c : ExcCode) : (raiseException c s).now = s.now := rfl
@[simp] theorem raiseException_script (c : ExcCode) : (raiseException c s).script = s.script := rfl
@[simp] theorem raiseException_waited (c : ExcCode) : (raiseException c s).waited = s.waited := rfl
@[simp] theorem raiseException_free (c : ExcCode) : (raiseException c s).free = s.free := rfl

/-! ### concludeDispatch -/

@[simp] theorem concludeDispatch_par : (concludeDispatch s).par = s.par := rfl
@[simp] theorem concludeDispatch_phase : (concludeDispatch s).phase = (if s.req.id = 0#8 then Phase.idle else Phase.emit) := rfl
@[simp] theorem concludeDispatch_len : (concludeDispatch s).len = s.len := rfl
@[simp] theorem concludeDispatch_conf : (concludeDispatch s).conf = s.conf := rfl
@[simp] theorem concludeDispatch_tMark : (concludeDispatch s).tMark = s.tMark := rfl
@[simp] theorem concludeDispatch_req : (concludeDispatch s).req = s.req := rfl
@[simp] theorem concludeDispatch_quietOk : (concludeDispatch s).quietOk = s.quietOk := rfl
@[simp] theorem concludeDispatch_exc : (concludeDispatch s).exc = s.exc := rfl
@[simp] theorem concludeDispatch_respLen : (concludeDispatch s).respLen = s.respLen := rfl
@[simp] theorem concludeDispatch_buf : (concludeDispatch s).buf = s.buf := rfl
@[simp] theorem concludeDispatch_txEn : (concludeDispatch s).txEn = s.txEn := rfl
@[simp] theorem concludeDispatch_res : (concludeDispatch s).res = ⟨s.req.fc, s.exc, s.req.start, s.req.qty, true⟩ := rfl
@[simp] theorem concludeDispatch_store : (concludeDispatch s).store = s.store := rfl
@[simp] theorem concludeDispatch_rxq : (concludeDispatch s).rxq = s.rxq := rfl
@[simp] theorem concludeDispatch_tx : (concludeDispatch s).tx = s.tx := rfl
@[simp] theorem concludeDispatch_txBusy : (concludeDispatch s).txBusy = s.txBusy := rfl
@[simp] theorem concludeDispatch_now : (concludeDispatch s).now = s.now := rfl
@[simp] theorem concludeDispatch_script : (concludeDispatch s).script = s.script := rfl
@[simp] theorem concludeDispatch_waited : (concludeDispatch s).waited = s.waited := rfl
@[simp] theorem concludeDispatch_free : (concludeDispatch s).free = s.free := rfl

/-! ### readResponse -/

@[simp] theorem readResponse_par (data : List Byte) : (readResponse data s).par = s.par := rfl
@[simp] theorem readResponse_phase (data : List Byte) : (readResponse data s).phase = s.phase := rfl
@[simp] theorem readResponse_len (data : List Byte) : (readResponse data s).len = s.len := rfl
@[simp] theorem readResponse_conf (data : List Byte) : (readResponse data s).conf = s.conf := rfl
@[simp] theorem readResponse_tMark (data : List Byte) : (readResponse data s).tMark = s.tMark := rfl
@[simp] theorem readResponse_req (data : List Byte) : (readResponse data s).req = s.req := rfl
@[simp] theorem readResponse_quietOk (data : List Byte) : (readResponse data s).quietOk = s.quietOk := rfl
@[simp] theorem readResponse_exc (data : List Byte) : (readResponse data s).exc = s.exc := rfl
@[simp] theorem readResponse_respLen (data : List Byte) : (readResponse data s).respLen = BitVec.ofNat 9 (3 + data.length) := rfl
@[simp] theorem readResponse_buf (data : List Byte) : (readResponse data s).buf = Memory.writeN s.buf 2 (BitVec.ofNat 8 data.length :: data) := rfl
@[simp] theorem readResponse_txEn (data : List Byte) : (readResponse data s).txEn = s.txEn := rfl
@[simp] theorem readResponse_res (data : List Byte) : (readResponse data s).res = s.res := rfl
@[simp] theorem readResponse_store (data : List Byte) : (readResponse data s).store = s.store := rfl
@[simp] theorem readResponse_rxq (data : List Byte) : (readResponse data s).rxq = s.rxq := rfl
@[simp] theorem readResponse_tx (data : List Byte) : (readResponse data s).tx = s.tx := rfl
@[simp] theorem readResponse_txBusy (data : List Byte) : (readResponse data s).txBusy = s.txBusy := rfl
@[simp] theorem readResponse_now (data : List Byte) : (readResponse data s).now = s.now := rfl
@[simp] theorem readResponse_script (data : List Byte) : (readResponse data s).script = s.script := rfl
@[simp] theorem readResponse_waited (data : List Byte) : (readResponse data s).waited = s.waited := rfl
@[simp] theorem readResponse_free (data : List Byte) : (readResponse data s).free = s.free := rfl

/-! ### echoResponse -/

@[simp] theorem echoResponse_par : (echoResponse s).par = s.par := rfl
@[simp] theorem echoResponse_phase : (echoResponse s).phase = s.phase := rfl
@[simp] theorem echoResponse_len : (echoResponse s).len = s.len := rfl
@[simp] theorem echoResponse_conf : (echoResponse s).conf = s.conf := rfl
@[simp] theorem echoResponse_tMark : (echoResponse s).tMark = s.tMark := rfl
@[simp] theorem echoResponse_req : (echoResponse s).req = s.req := rfl
@[simp] theorem echoResponse_quietOk : (echoResponse s).quietOk = s.quietOk := rfl
@[simp] theorem echoResponse_exc : (echoResponse s).exc = s.exc := rfl
@[simp] theorem echoResponse_respLen : (echoResponse s).respLen = 6#9 := rfl
@[simp] theorem echoResponse_buf : (echoResponse s).buf = s.buf := rfl
@[simp] theorem echoResponse_txEn : (echoResponse s).txEn = s.txEn := rfl
@[simp] theorem echoResponse_res : (echoResponse s).res = s.res := rfl
@[simp] theorem echoResponse_store : (echoResponse s).store = s.store := rfl
@[simp] theorem echoResponse_rxq : (echoResponse s).rxq = s.rxq := rfl
@[simp] theorem echoResponse_tx : (echoResponse s).tx = s.tx := rfl
@[simp] theorem echoResponse_txBusy : (echoResponse s).txBusy = s.txBusy := rfl
@[simp] theorem echoResponse_now : (echoResponse s).now = s.now := rfl
@[simp] theorem echoResponse_script : (echoResponse s).script = s.script := rfl
@[simp] theorem echoResponse_waited : (echoResponse s).waited = s.waited := rfl
@[simp] theorem echoResponse_free : (echoResponse s).free = s.free := rfl

/-! ### drainQuiet -/

@[simp] theorem drainQuiet_par : (drainQuiet s).par = s.par := rfl
@[simp] theorem drainQuiet_phase : (drainQuiet s).phase = .idle := rfl
@[simp] theorem drainQuiet_len : (drainQuiet s).len = s.len := rfl
@[simp] theorem drainQuiet_conf : (drainQuiet s).conf = s.conf := rfl
@[simp] theorem drainQuiet_tMark : (drainQuiet s).tMark = s.tMark := rfl
@[simp] theorem drainQuiet_req : (drainQuiet s).req = s.req := rfl
@[simp] theorem drainQuiet_quietOk : (drainQuiet s).quietOk = s.quietOk := rfl
@[simp] theorem drainQuiet_exc : (drainQuiet s).exc = s.exc := rfl
@[simp] theorem drainQuiet_respLen : (drainQuiet s).respLen = s.respLen := rfl
@[simp] theorem drainQuiet_buf : (drainQuiet s).buf = s.buf := rfl
@[simp] theorem drainQuiet_txEn : (drainQuiet s).txEn = s.txEn := rfl
@[simp] theorem drainQuiet_res : (drainQuiet s).res = s.res := rfl
@[simp] theorem drainQuiet_store : (drainQuiet s).store = s.store := rfl
@[simp] theorem drainQuiet_rxq : (drainQuiet s).rxq = s.rxq := rfl
@[simp] theorem drainQuiet_tx : (drainQuiet s).tx = s.tx := rfl
@[simp] theorem drainQuiet_txBusy : (drainQuiet s).txBusy = s.txBusy := rfl
@[simp] theorem drainQuiet_now : (drainQuiet s).now = s.now := rfl
@[simp] theorem drainQuiet_script : (drainQuiet s).script = s.script := rfl
@[simp] theorem drainQuiet_waited : (drainQuiet s).waited = s.waited := rfl
@[simp] theorem drainQuiet_free : (drainQuiet s).free = s.free := rfl

/-! ### idleStart -/

@[simp] theorem idleStart_par : (idleStart s).par = s.par := rfl
@[simp] theorem idleStart_phase : (idleStart s).phase = .recv := rfl
@[simp] theorem idleStart_len : (idleStart s).len = 0#9 := rfl
@[simp] theorem idleStart_conf : (idleStart s).conf = s.conf := rfl
@[simp] theorem idleStart_tMark : (idleStart s).tMark = s.now := rfl
@[simp] theorem idleStart_req : (idleStart s).req = s.req := rfl
@[simp] theorem idleStart_quietOk : (idleStart s).quietOk = s.quietOk := rfl
@[simp] theorem idleStart_exc : (idleStart s).exc = s.exc := rfl
@[simp] theorem idleStart_respLen : (idleStart s).respLen = s.respLen := rfl
@[simp] theorem idleStart_buf : (idleStart s).buf = s.buf := rfl
@[simp] theorem idleStart_txEn : (idleStart s).txEn = s.txEn := rfl
@[simp] theorem idleStart_res : (idleStart s).res = s.res := rfl
@[simp] theorem idleStart_store : (idleStart s).store = s.store := rfl
@[simp] theorem idleStart_rxq : (idleStart s).rxq = s.rxq := rfl
@[simp] theorem idleStart_tx : (idleStart s).tx = s.tx := rfl
@[simp] theorem idleStart_txBusy : (idleStart s).txBusy = s.txBusy := rfl
@[simp] theorem idleStart_now : (idleStart s).now = s.now := rfl
@[simp] theorem idleStart_script : (idleStart s).script = s.script := rfl
@[simp] theorem idleStart_waited : (idleStart s).waited = s.waited := rfl
@[simp] theorem idleStart_free : (idleStart s).free = s.free := rfl

/-! ### recvFull -/

@[simp] theorem recvFull_par : (recvFull s).par = s.par := rfl
@[simp] theorem recvFull_phase : (recvFull s).phase = .quiet := rfl
@[simp] theorem recvFull_len : (recvFull s).len = s.len := rfl
@[simp] theorem recvFull_conf : (recvFull s).conf = s.conf := rfl
@[simp] theorem recvFull_tMark : (recvFull s).tMark = s.tMark := rfl
@[simp] theorem recvFull_req : (recvFull s).req = s.req := rfl
@[simp] theorem recvFull_quietOk : (recvFull s).quietOk = s.quietOk := rfl
@[simp] theorem recvFull_exc : (recvFull s).exc = s.exc := rfl
@[simp] theorem recvFull_respLen : (recvFull s).respLen = s.respLen := rfl
@[simp] theorem recvFull_buf : (recvFull s).buf = s.buf := rfl
@[simp] theorem recvFull_txEn : (recvFull s).txEn = s.txEn := rfl
@[simp] theorem recvFull_res : (recvFull s).res = s.res := rfl
@[simp] theorem recvFull_store : (recvFull s).store = s.store := rfl
@[simp] theorem recvFull_rxq : (recvFull s).rxq = s.rxq := rfl
@[simp] theorem recvFull_tx : (recvFull s).tx = s.tx := rfl
@[simp] theorem recvFull_txBusy : (recvFull s).txBusy = s.txBusy := rfl
@[simp] theorem recvFull_now : (recvFull s).now = s.now := rfl
@[simp] theorem recvFull_script : (recvFull s).script = s.script := rfl
@[simp] theorem recvFull_waited : (recvFull s).waited = s.waited := rfl
@[simp] theorem recvFull_free : (recvFull s).free = s.free := rfl

/-! ### recvExpire -/

@[simp] theorem recvExpire_par : (recvExpire s).par = s.par := rfl
@[simp] theorem recvExpire_phase : (recvExpire s).phase = .quiet := rfl
@[simp] theorem recvExpire_len : (recvExpire s).len = s.len := rfl
@[simp] theorem recvExpire_conf : (recvExpire s).conf = s.conf := rfl
@[simp] theorem recvExpire_tMark : (recvExpire s).tMark = s.tMark := rfl
@[simp] theorem recvExpire_req : (recvExpire s).req = s.req := rfl
@[simp] theorem recvExpire_quietOk : (recvExpire s).quietOk = s.quietOk := rfl
@[simp] theorem recvExpire_exc : (recvExpire s).exc = s.exc := rfl
@[simp] theorem recvExpire_respLen : (recvExpire s).respLen = s.respLen := rfl
@[simp] theorem recvExpire_buf : (recvExpire s).buf = s.buf := rfl
@[simp] theorem recvExpire_txEn : (recvExpire s).txEn = s.txEn := rfl
@[simp] theorem recvExpire_res : (recvExpire s).res = s.res := rfl
@[simp] theorem recvExpire_store : (recvExpire s).store = s.store := rfl
@[simp] theorem recvExpire_rxq : (recvExpire s).rxq = s.rxq := rfl
@[simp] theorem recvExpire_tx : (recvExpire s).tx = s.tx := rfl
@[simp] theorem recvExpire_txBusy : (recvExpire s).txBusy = s.txBusy := rfl
@[simp] theorem recvExpire_now : (recvExpire s).now = s.now := rfl
@[simp] theorem recvExpire_script : (recvExpire s).script = s.script := rfl
@[simp] theorem recvExpire_waited : (recvExpire s).waited = s.waited := rfl
@[simp] theorem recvExpire_free : (recvExpire s).free = s.free := rfl

/-! ### quietEnd -/

@[simp] theorem quietEnd_par : (quietEnd s).par = s.par := rfl
@[simp] theorem quietEnd_phase : (quietEnd s).phase = .validate := rfl
@[simp] theorem quietEnd_len : (quietEnd s).len = s.len := rfl
@[simp] theorem quietEnd_conf : (quietEnd s).conf = s.conf := rfl
@[simp] theorem quietEnd_tMark : (quietEnd s).tMark = s.tMark := rfl
@[simp] theorem quietEnd_req : (quietEnd s).req = s.req := rfl
@[simp] theorem quietEnd_quietOk : (quietEnd s).quietOk = quietFlag s := rfl
@[simp] theorem quietEnd_exc : (quietEnd s).exc = s.exc := rfl
@[simp] theorem quietEnd_respLen : (quietEnd s).respLen = s.respLen := rfl
@[simp] theorem quietEnd_buf : (quietEnd s).buf = s.buf := rfl
@[simp] theorem quietEnd_txEn : (quietEnd s).txEn = s.txEn := rfl
@[simp] theorem quietEnd_res : (quietEnd s).res = s.res := rfl
@[simp] theorem quietEnd_store : (quietEnd s).store = s.store := rfl
@[simp] theorem quietEnd_rxq : (quietEnd s).rxq = s.rxq := rfl
@[simp] theorem quietEnd_tx : (quietEnd s).tx = s.tx := rfl
@[simp] theorem quietEnd_txBusy : (quietEnd s).txBusy = s.txBusy := rfl
@[simp] theorem quietEnd_now : (quietEnd s).now = s.now := rfl
@[simp] theorem quietEnd_script : (quietEnd s).script = s.script := rfl
@[simp] theorem quietEnd_waited : (quietEnd s).waited = s.waited := rfl
@[simp] theorem quietEnd_free : (quietEnd s).free = s.free := rfl

/-! ### rejectFrame -/

@[simp] theorem rejectFrame_par : (rejectFrame s).par = s.par := rfl
@[simp] theorem rejectFrame_phase : (rejectFrame s).phase = .idle := rfl
@[simp] theorem rejectFrame_len : (rejectFrame s).len = s.len := rfl
@[simp] theorem rejectFrame_conf : (rejectFrame s).conf = s.conf := rfl
@[simp] theorem rejectFrame_tMark : (rejectFrame s).tMark = s.tMark := rfl
@[simp] theorem rejectFrame_req : (rejectFrame s).req = s.req := rfl
@[simp] theorem rejectFrame_quietOk : (rejectFrame s).quietOk = s.quietOk := rfl
@[simp] theorem rejectFrame_exc : (rejectFrame s).exc = s.exc := rfl
@[simp] theorem rejectFrame_respLen : (rejectFrame s).respLen = s.respLen := rfl
@[simp] theorem rejectFrame_buf : (rejectFrame s).buf = s.buf := rfl
@[simp] theorem rejectFrame_txEn : (rejectFrame s).txEn = s.txEn := rfl
@[simp] theorem rejectFrame_res : (rejectFrame s).res = ⟨0#8, 0#3, 0#16, 0#16, true⟩ := rfl
@[simp] theorem rejectFrame_store : (rejectFrame s).store = s.store := rfl
@[simp] theorem rejectFrame_rxq : (rejectFrame s).rxq = s.rxq := rfl
@[simp] theorem rejectFrame_tx : (rejectFrame s).tx = s.tx := rfl
@[simp] theorem rejectFrame_txBusy : (rejectFrame s).txBusy = s.txBusy := rfl
@[simp] theorem rejectFrame_now : (rejectFrame s).now = s.now := rfl
@[simp] theorem rejectFrame_script : (rejectFrame s).script = s.script := rfl
@[simp] theorem rejectFrame_waited : (rejectFrame s).waited = s.waited := rfl
@[simp] theorem rejectFrame_free : (rejectFrame s).free = s.free := rfl

/-! ### acceptFrame -/

@[simp] theorem acceptFrame_par : (acceptFrame s).par = s.par := rfl
@[simp] theorem acceptFrame_phase : (acceptFrame s).phase = .dispatch := rfl
@[simp] theorem acceptFrame_len : (acceptFrame s).len = s.len := rfl
@[simp] theorem acceptFrame_conf : (acceptFrame s).conf = s.conf := rfl
@[simp] theorem acceptFrame_tMark : (acceptFrame s).tMark = s.tMark := rfl
@[simp] theorem acceptFrame_req : (acceptFrame s).req = s.req := rfl
@[simp] theorem acceptFrame_quietOk : (acceptFrame s).quietOk = s.quietOk := rfl
@[simp] theorem acceptFrame_exc : (acceptFrame s).exc = s.exc := rfl
@[simp] theorem acceptFrame_respLen : (acceptFrame s).respLen = s.respLen := rfl
@[simp] theorem acceptFrame_buf : (acceptFrame s).buf = s.buf := rfl
@[simp] theorem acceptFrame_txEn : (acceptFrame s).txEn = s.txEn := rfl
@[simp] theorem acceptFrame_res : (acceptFrame s).res = s.res := rfl
@[simp] theorem acceptFrame_store : (acceptFrame s).store = s.store := rfl
@[simp] theorem acceptFrame_rxq : (acceptFrame s).rxq = s.rxq := rfl
@[simp] theorem acceptFrame_tx : (acceptFrame s).tx = s.tx := rfl
@[simp] theorem acceptFrame_txBusy : (acceptFrame s).txBusy = s.txBusy := rfl
@[simp] theorem acceptFrame_now : (acceptFrame s).now = s.now := rfl
@[simp] theorem acceptFrame_script : (acceptFrame s).script = s.script := rfl
@[simp] theorem acceptFrame_waited : (acceptFrame s).waited = s.waited := rfl
@[simp] theorem acceptFrame_free : (acceptFrame s).free = s.free := rfl

/-! ### flushStep -/

@[simp] theorem flushStep_par : (flushStep s).par = s.par := rfl
@[simp] theorem flushStep_phase : (flushStep s).phase = .drain := rfl
@[simp] theorem flushStep_len : (flushStep s).len = s.len := rfl
@[simp] theorem flushStep_conf : (flushStep s).conf = s.conf := rfl
@[simp] theorem flushStep_tMark : (flushStep s).tMark = s.now := rfl
@[simp] theorem flushStep_req : (flushStep s).req = s.req := rfl
@[simp] theorem flushStep_quietOk : (flushStep s).quietOk = s.quietOk := rfl
@[simp] theorem flushStep_exc : (flushStep s).exc = s.exc := rfl
@[simp] theorem flushStep_respLen : (flushStep s).respLen = s.respLen := rfl
@[simp] theorem flushStep_buf : (flushStep s).buf = s.buf := rfl
@[simp] theorem flushStep_txEn : (flushStep s).txEn = false := rfl
@[simp] theorem flushStep_res : (flushStep s).res = s.res := rfl
@[simp] theorem flushStep_store : (flushStep s).store = s.store := rfl
@[simp] theorem flushStep_rxq : (flushStep s).rxq = s.rxq := rfl
@[simp] theorem flushStep_tx : (flushStep s).tx = s.tx := rfl
@[simp] theorem flushStep_txBusy : (flushStep s).txBusy = s.txBusy := rfl
@[simp] theorem flushStep_now : (flushStep s).now = s.now := rfl
@[simp] theorem flushStep_script : (flushStep s).script = s.script := rfl
@[simp] theorem flushStep_waited : (flushStep s).waited = s.waited := rfl
@[simp] theorem flushStep_free : (flushStep s).free = s.free := rfl

/-! ### startDrain -/

@[simp] theorem startDrain_par : (startDrain s).par = s.par := rfl
@[simp] theorem startDrain_phase : (startDrain s).phase = .drain := rfl
@[simp] theorem startDrain_len : (startDrain s).len = s.len := rfl
@[simp] theorem startDrain_conf : (startDrain s).conf = s.conf := rfl
@[simp] theorem startDrain_tMark : (startDrain s).tMark = s.now := rfl
@[simp] theorem startDrain_req : (startDrain s).req = s.req := rfl
@[simp] theorem startDrain_quietOk : (startDrain s).quietOk = s.quietOk := rfl
@[simp] theorem startDrain_exc : (startDrain s).exc = s.exc := rfl
@[simp] theorem startDrain_respLen : (startDrain s).respLen = s.respLen := rfl
@[simp] theorem startDrain_buf : (startDrain s).buf = s.buf := rfl
@[simp] theorem startDrain_txEn : (startDrain s).txEn = s.txEn := rfl
@[simp] theorem startDrain_res : (startDrain s).res = s.res := rfl
@[simp] theorem startDrain_store : (startDrain s).store = s.store := rfl
@[simp] theorem startDrain_rxq : (startDrain s).rxq = s.rxq := rfl
@[simp] theorem startDrain_tx : (startDrain s).tx = s.tx := rfl
@[simp] theorem startDrain_txBusy : (startDrain s).txBusy = s.txBusy := rfl
@[simp] theorem startDrain_now : (startDrain s).now = s.now := rfl
@[simp] theorem startDrain_script : (startDrain s).script = s.script := rfl
@[simp] theorem startDrain_waited : (startDrain s).waited = s.waited := rfl
@[simp] theorem startDrain_free : (startDrain s).free = s.free := rfl

/-! ### setTimeouts -/

@[simp] theorem setTimeouts_par (baud : BitVec 32) (parity : Parity) (stop2 : Bool) : (setTimeouts baud parity stop2 s).par = s.par := rfl
@[simp] theorem setTimeouts_phase (baud : BitVec 32) (parity : Parity) (stop2 : Bool) : (setTimeouts baud parity stop2 s).phase = s.phase := rfl
@[simp] theorem setTimeouts_len (baud : BitVec 32) (parity : Parity) (stop2 : Bool) : (setTimeouts baud parity stop2 s).len = s.len := rfl
@[simp] theorem setTimeouts_conf (baud : BitVec 32) (parity : Parity) (stop2 : Bool) : (setTimeouts baud parity stop2 s).conf = { s.conf with
      charTimeout := BitVec.ofNat 32 (charTimeoutOf baud.toNat (bitsPerChar parity stop2))
      frameTimeout := BitVec.ofNat 32 (frameTimeoutOf baud.toNat (bitsPerChar parity stop2)) } := rfl
@[simp] theorem setTimeouts_tMark (baud : BitVec 32) (parity : Parity) (stop2 : Bool) : (setTimeouts baud parity stop2 s).tMark = s.tMark := rfl
@[simp] theorem setTimeouts_req (baud : BitVec 32) (parity : Parity) (stop2 : Bool) : (setTimeouts baud parity stop2 s).req = s.req := rfl
@[simp] theorem setTimeouts_quietOk (baud : BitVec 32) (parity : Parity) (stop2 : Bool) : (setTimeouts baud parity stop2 s).quietOk = s.quietOk := rfl
@[simp] theorem setTimeouts_exc (baud : BitVec 32) (parity : Parity) (stop2 : Bool) : (setTimeouts baud parity stop2 s).exc = s.exc := rfl
@[simp] theorem setTimeouts_respLen (baud : BitVec 32) (parity : Parity) (stop2 : Bool) : (setTimeouts baud parity stop2 s).respLen = s.respLen := rfl
@[simp] theorem setTimeouts_buf (baud : BitVec 32) (parity : Parity) (stop2 : Bool) : (setTimeouts baud parity stop2 s).buf = s.buf := rfl
@[simp] theorem setTimeouts_txEn (baud : BitVec 32) (parity : Parity) (stop2 : Bool) : (setTimeouts baud parity stop2 s).txEn = s.txEn := rfl
@[simp] theorem setTimeouts_res (baud : BitVec 32) (parity : Parity) (stop2 : Bool) : (setTimeouts baud parity stop2 s).res = s.res := rfl
@[simp] theorem setTimeouts_store (baud : BitVec 32) (parity : Parity) (stop2 : Bool) : (setTimeouts baud parity stop2 s).store = s.store := rfl
@[simp] theorem setTimeouts_rxq (baud : BitVec 32) (parity : Parity) (stop2 : Bool) : (setTimeouts baud parity stop2 s).rxq = s.rxq := rfl
@[simp] theorem setTimeouts_tx (baud : BitVec 32) (parity : Parity) (stop2 : Bool) : (setTimeouts baud parity stop2 s).tx = s.tx := rfl
@[simp] theorem setTimeouts_txBusy (baud : BitVec 32) (parity : Parity) (stop2 : Bool) : (setTimeouts baud parity stop2 s).txBusy = s.txBusy := rfl
@[simp] theorem setTimeouts_now (baud : BitVec 32) (parity : Parity) (stop2 : Bool) : (setTimeouts baud parity stop2 s).now = s.now := rfl
@[simp] theorem setTimeouts_script (baud : BitVec 32) (parity : Parity) (stop2 : Bool) : (setTimeouts baud parity stop2 s).script = s.script := rfl
@[simp] theorem setTimeouts_waited (baud : BitVec 32) (parity : Parity) (stop2 : Bool) : (setTimeouts baud parity stop2 s).waited = s.waited := rfl
@[simp] theorem setTimeouts_free (baud : BitVec 32) (parity : Parity) (stop2 : Bool) : (setTimeouts baud parity stop2 s).free = s.free := rfl

/-! ### engineReset -/

@[simp] theorem engineReset_par : (engineReset s).par = s.par := rfl
@[simp] theorem engineReset_phase : (engineReset s).phase = .unconf := rfl
@[simp] theorem engineReset_len : (engineReset s).len = 0#9 := rfl
@[simp] theorem engineReset_conf : (engineReset s).conf = .reset := rfl
@[simp] theorem engineReset_tMark : (engineReset s).tMark = 0 := rfl
@[simp] theorem engineReset_req : (engineReset s).req = .reset := rfl
@[simp] theorem engineReset_quietOk : (engineReset s).quietOk = false := rfl
@[simp] theorem engineReset_exc : (engineReset s).exc = 0#3 := rfl
@[simp] theorem engineReset_respLen : (engineReset s).respLen = 0#9 := rfl
@[simp] theorem engineReset_buf : (engineReset s).buf = [] := rfl
@[simp] theorem engineReset_txEn : (engineReset s).txEn = false := rfl
@[simp] theorem engineReset_res : (engineReset s).res = .reset := rfl
@[simp] theorem engineReset_store : (engineReset s).store = s.store := rfl
@[simp] theorem engineReset_rxq : (engineReset s).rxq = s.rxq := rfl
@[simp] theorem engineReset_tx : (engineReset s).tx = s.tx := rfl
@[simp] theorem engineReset_txBusy : (engineReset s).txBusy = s.txBusy := rfl
@[simp] theorem engineReset_now : (engineReset s).now = s.now := rfl
@[simp] theorem engineReset_script : (engineReset s).script = s.script := rfl
@[simp] theorem engineReset_waited : (engineReset s).waited = 0 := rfl
@[simp] theorem engineReset_free : (engineReset s).free = s.free := rfl

/-! ### rearm -/

@[simp] theorem rearm_par : (rearm s).par = s.par := rfl
@[simp] theorem rearm_phase : (rearm s).phase = s.phase := rfl
@[simp] theorem rearm_len : (rearm s).len = s.len := rfl
@[simp] theorem rearm_conf : (rearm s).conf = s.conf := rfl
@[simp] theorem rearm_tMark : (rearm s).tMark = s.tMark := rfl
@[simp] theorem rearm_req : (rearm s).req = s.req := rfl
@[simp] theorem rearm_quietOk : (rearm s).quietOk = s.quietOk := rfl
@[simp] theorem rearm_exc : (rearm s).exc = s.exc := rfl
@[simp] theorem rearm_respLen : (rearm s).respLen = s.respLen := rfl
@[simp] theorem rearm_buf : (rearm s).buf = s.buf := rfl
@[simp] theorem rearm_txEn : (rearm s).txEn = s.txEn := rfl
@[simp] theorem rearm_res : (rearm s).res = s.res := rfl
@[simp] theorem rearm_store : (rearm s).store = s.store := rfl
@[simp] theorem rearm_rxq : (rearm s).rxq = s.rxq := rfl
@[simp] theorem rearm_tx : (rearm s).tx = s.tx := rfl
@[simp] theorem rearm_txBusy : (rearm s).txBusy = s.txBusy := rfl
@[simp] theorem rearm_now : (rearm s).now = s.now := rfl
@[simp] theorem rearm_script : (rearm s).script = s.script := rfl
@[simp] theorem rearm_waited : (rearm s).waited = 0 := rfl
@[simp] theorem rearm_free : (rearm s).free = s.free := rfl

/-! ### settle (the wait is the one field it decides) -/

@[simp] theorem settle_par (after : State) : (settle s after).par = after.par := rfl
@[simp] theorem settle_phase (after : State) : (settle s after).phase = after.phase := rfl
@[simp] theorem settle_len (after : State) : (settle s after).len = after.len := rfl
@[simp] theorem settle_conf (after : State) : (settle s after).conf = after.conf := rfl
@[simp] theorem settle_tMark (after : State) : (settle s after).tMark = after.tMark := rfl
@[simp] theorem settle_req (after : State) : (settle s after).req = after.req := rfl
@[simp] theorem settle_quietOk (after : State) : (settle s after).quietOk = after.quietOk := rfl
@[simp] theorem settle_exc (after : State) : (settle s after).exc = after.exc := rfl
@[simp] theorem settle_respLen (after : State) : (settle s after).respLen = after.respLen := rfl
@[simp] theorem settle_buf (after : State) : (settle s after).buf = after.buf := rfl
@[simp] theorem settle_txEn (after : State) : (settle s after).txEn = after.txEn := rfl
@[simp] theorem settle_res (after : State) : (settle s after).res = after.res := rfl
@[simp] theorem settle_store (after : State) : (settle s after).store = after.store := rfl
@[simp] theorem settle_rxq (after : State) : (settle s after).rxq = after.rxq := rfl
@[simp] theorem settle_tx (after : State) : (settle s after).tx = after.tx := rfl
@[simp] theorem settle_txBusy (after : State) : (settle s after).txBusy = after.txBusy := rfl
@[simp] theorem settle_now (after : State) : (settle s after).now = after.now := rfl
@[simp] theorem settle_script (after : State) : (settle s after).script = after.script := rfl
@[simp] theorem settle_free (after : State) : (settle s after).free = after.free := rfl

/-! ### tick -/

@[simp] theorem tick_par : (tick s).par = s.par := rfl
@[simp] theorem tick_phase : (tick s).phase = s.phase := rfl
@[simp] theorem tick_len : (tick s).len = s.len := rfl
@[simp] theorem tick_conf : (tick s).conf = s.conf := rfl
@[simp] theorem tick_tMark : (tick s).tMark = s.tMark := rfl
@[simp] theorem tick_req : (tick s).req = s.req := rfl
@[simp] theorem tick_quietOk : (tick s).quietOk = s.quietOk := rfl
@[simp] theorem tick_exc : (tick s).exc = s.exc := rfl
@[simp] theorem tick_respLen : (tick s).respLen = s.respLen := rfl
@[simp] theorem tick_buf : (tick s).buf = s.buf := rfl
@[simp] theorem tick_txEn : (tick s).txEn = s.txEn := rfl
@[simp] theorem tick_res : (tick s).res = s.res := rfl
@[simp] theorem tick_store : (tick s).store = s.store := rfl
@[simp] theorem tick_rxq : (tick s).rxq = s.rxq := rfl
@[simp] theorem tick_tx : (tick s).tx = s.tx := rfl
@[simp] theorem tick_txBusy : (tick s).txBusy = s.txBusy := rfl
@[simp] theorem tick_now : (tick s).now = wrapTime s.par (s.now + 1) := rfl
@[simp] theorem tick_script : (tick s).script = s.script := rfl
@[simp] theorem tick_free : (tick s).free = s.free := rfl

end Sys2Proof.Machine
end

