-- ==== Sys2Proof/Laws/Requests.lean ====
section
/-! SUPPORT. What a dispatch can do, said once: the validation of a request against its legal shape, and the inversion of `exec`. -/

namespace Sys2Proof.Machine

/-! ### Buffer reads -/

/-- `buf[0..n)` reads as `bytes` exactly when it lies in the buffer and each byte has been written. -/
theorem readBuf_ok_iff (s : State) (n : Nat) (bytes : List Byte) :
    readBuf s n = .ok bytes ↔ n ≤ 256 ∧ bytes.length = n ∧ ∀ k, k < n → Memory.read s.buf k = bytes[k]? := by
  have key := Memory.readN_eq_some_iff s.buf 0 n bytes
  simp only [Nat.zero_add] at key
  simp only [readBuf, bufCap]
  split
  · simp; omega
  · rw [← key]
    cases Memory.readN s.buf 0 n <;> simp; omega

/-- Buffer reads depend only on the bytes read. -/
theorem readBuf_congr {s t : State} {n : Nat} (h : ∀ k, k < n → Memory.read s.buf k = Memory.read t.buf k) :
    readBuf s n = readBuf t n := by
  have : Memory.readN s.buf 0 n = Memory.readN t.buf 0 n := Memory.readN_congr (by simpa using h)
  simp only [readBuf, this]

/-- Written bytes inside the buffer can be read. -/
theorem readBuf_of_written {s : State} {n : Nat} (hn : n ≤ 256) (h : Written s.buf n) : ∃ bytes, readBuf s n = .ok bytes := by
  simp only [readBuf, bufCap]
  rw [if_neg (by omega)]
  cases hr : Memory.readN s.buf 0 n with
  | some bytes => exact ⟨bytes, rfl⟩
  | none =>
    obtain ⟨k, hk, hn'⟩ := (Memory.readN_eq_none_iff _ _ _).1 hr
    have := h k hk
    rw [Nat.zero_add] at hn'
    simp [hn'] at this

/-! ### Validation -/

theorem regionPresent_iff (s : State) (sp : Space) : regionPresent s sp = true ↔ Present s sp := by
  have hz : (0#16).toNat = 0 := rfl
  simp only [regionPresent, Present, Bool.and_eq_true, decide_eq_true_eq, ne_eq]
  refine and_congr_right fun _ => ?_
  constructor
  · intro (h : 0 < (descriptor s sp).len.toNat) e
    rw [e, hz] at h
    omega
  · intro h
    refine Nat.pos_of_ne_zero fun e => h (BitVec.eq_of_toNat_eq (by simpa using e))

/-- `range_ok` is `start + qty <= length` over the unbounded integers (R118). -/
theorem rangeOk_iff (start qty : Word) (n : Nat) : rangeOk start qty n = true ↔ start.toNat + qty.toNat ≤ n := by
  simp only [rangeOk, Bool.and_eq_true, decide_eq_true_eq]
  omega

/-- The four parts of `shape_ok` (R117). -/
theorem shapeOk_iff (f : Fn) (qty : Word) (bc : Byte) (len : Nat) (value : Word) :
    shapeOk f qty bc len value = true ↔
      1 ≤ qty.toNat ∧ qty.toNat ≤ fnQmax f ∧ fnByteCountOk f qty bc = true ∧ fnLengthOk f len bc = true ∧
        fnValueOk f value = true := by
  simp [shapeOk, and_assoc]

theorem firstFailure_none_iff (p sh r : Bool) : firstFailure p sh r = none ↔ p = true ∧ sh = true ∧ r = true := by
  cases p <;> cases sh <;> cases r <;> simp [firstFailure]

theorem firstFailure_ne_device (p sh r : Bool) : firstFailure p sh r ≠ some .deviceFailure := by
  cases p <;> cases sh <;> cases r <;> simp [firstFailure]

/-- The table's shape check of a request, R117 as its meaning calls it. -/
def requestShape : Instr → Bool
  | .rc _ b => shapeOk .rc b.field2 0#8 b.len b.field2
  | .rdi _ b => shapeOk .rdi b.field2 0#8 b.len b.field2
  | .rhr _ b => shapeOk .rhr b.field2 0#8 b.len b.field2
  | .rir _ b => shapeOk .rir b.field2 0#8 b.len b.field2
  | .wsc _ b => shapeOk .wsc 1#16 0#8 b.len b.field2
  | .wsr _ b => shapeOk .wsr 1#16 0#8 b.len b.field2
  | .wmc _ b => shapeOk .wmc b.qty b.bc b.len 0#16
  | .wmr _ b => shapeOk .wmr b.qty b.bc b.len 0#16
  | .illegal _ _ _ => false

/-- The access of a request, as its meaning calls it. -/
def requestAccess (i : Instr) (s : State) : State → Option State :=
  match i with
  | .rc _ b => readBits s.store.coils b.start b.field2
  | .rdi _ b => readBits s.store.di b.start b.field2
  | .rhr _ b => readWords s.store.hr b.start b.field2
  | .rir _ b => readWords s.store.ir b.start b.field2
  | .wsc _ b => writeCoils b.start [b.field2 == 0xFF00#16]
  | .wsr _ b => writeRegisters b.start [b.field2]
  | .wmc _ b => writeCoils b.start (unpackBits b.qty.toNat b.data)
  | .wmr _ b => writeRegisters b.start (unpackWords b.qty.toNat b.data)
  | .illegal _ _ _ => fun _ => none

/-- The state an access starts from: latched, with `exc` 0 (R119). -/
def startAccess (i : Instr) (s : State) : State := { latch i.id i.fc i.start i.qty s with exc := 0#3 }

/-- Where a dispatch goes (R124). -/
theorem concludeDispatch_phase_cases (s : State) :
    (concludeDispatch s).phase = .idle ∧ s.req.id = 0#8 ∨ (concludeDispatch s).phase = .emit ∧ s.req.id ≠ 0#8 := by
  by_cases h : s.req.id = 0#8
  · exact .inl ⟨if_pos h, h⟩
  · exact .inr ⟨if_neg h, h⟩

/-- A dispatch goes to no phase that reads the timer. -/
@[simp] theorem concludeDispatch_readsTimer (s : State) : (concludeDispatch s).phase.readsTimer = false := by
  rcases concludeDispatch_phase_cases s with ⟨e, -⟩ | ⟨e, -⟩ <;> rw [e] <;> rfl

/-- The state a raised exception leaves. -/
def raised (i : Instr) (c : ExcCode) (s : State) : State :=
  concludeDispatch (raiseException c (latch i.id i.fc i.start i.qty s))

/-- Every request of R114 is `serve`d with its region, shape and access: one equation for eight instructions. -/
theorem exec_eq (i : Instr) (sp : Space) (s : State) (h : i.space? = some sp) :
    exec i s =
      match firstFailure (regionPresent s sp) (requestShape i) (rangeOk i.start i.qty (regionLen s sp)) with
      | some c => .next (raised i c s)
      | none =>
        match requestAccess i s (startAccess i s) with
        | some t => .next (concludeDispatch t)
        | none => .fault .cellAbsent := by
  cases i <;> simp only [Instr.space?, Option.some.injEq, reduceCtorEq] at h <;> subst h <;> rfl

theorem exec_illegal (id fc : Byte) (p : List Byte) (s : State) :
    exec (.illegal id fc p) s = .next (raised (.illegal id fc p) .illegalFunction s) := rfl

/-- An ill-shaped, well-formed misfit never passes the length rule; a fit passes it. So the table's check is each function's own
legal shape (R117 against R126 to R138). -/
theorem requestShape_iff (i : Instr) (hw : i.wf = true) : requestShape i = true ↔ i.legalShape := by
  cases i with
  | illegal id fc p => simp [requestShape, Instr.legalShape]
  | rc id b | rdi id b | rhr id b | rir id b =>
    cases b with
    | fit f1 f2 =>
      simp [requestShape, Instr.legalShape, shapeOk_iff, fnQmax, fnByteCountOk, fnLengthOk, fnValueOk, Q8.field2, Q8.len]
    | misfit p =>
      simp only [Instr.wf, Q8.wf, Bool.and_eq_true, bne_iff_ne, ne_eq] at hw
      simp [requestShape, Instr.legalShape, shapeOk_iff, fnLengthOk, Q8.len, hw.1]
  | wsc id b | wsr id b =>
    cases b with
    | fit f1 f2 =>
      simp [requestShape, Instr.legalShape, shapeOk_iff, fnQmax, fnByteCountOk, fnLengthOk, fnValueOk, Q8.field2, Q8.len]
    | misfit p =>
      simp only [Instr.wf, Q8.wf, Bool.and_eq_true, bne_iff_ne, ne_eq] at hw
      simp [requestShape, Instr.legalShape, shapeOk_iff, fnLengthOk, Q8.len, hw.1]
  | wmc id b | wmr id b =>
    cases b with
    | fit st q data =>
      simp only [Instr.wf, QM.wf, decide_eq_true_eq] at hw
      have hcap : maxPayload = 252 := rfl
      have hb : data.length % 256 = data.length := by omega
      simp [requestShape, Instr.legalShape, shapeOk_iff, fnQmax, fnByteCountOk, fnLengthOk, fnValueOk, QM.qty, QM.bc, QM.len,
        ceil8, hb, Nat.add_comm]
    | misfit p =>
      simp only [Instr.wf, QM.wf, Bool.and_eq_true, Bool.or_eq_true, bne_iff_ne, ne_eq, decide_eq_true_eq] at hw
      have hlen : ¬ p.length + 4 = 9 + (pb p 6).toNat := by
        rw [show pb p 6 = p.getD 4 0 from rfl]
        rcases hw.1 with h | h <;> omega
      simp [requestShape, Instr.legalShape, shapeOk_iff, fnLengthOk, QM.bc, QM.len, hlen]

/-! ### What a dispatch can do -/

/-- What the access of a request can answer: a read builds a response of at most 250 data bytes, a write replaces provided cells of
`COILS` or `HR` and echoes. -/
theorem requestAccess_cases {i : Instr} {s t : State} (hs : requestShape i = true)
    (h : requestAccess i s (startAccess i s) = some t) :
    (∃ data, data.length ≤ 250 ∧ i.isRead = true ∧ t = readResponse data (startAccess i s)) ∨
    (∃ bits, i.isRead = false ∧ i.space? = some .coils ∧ bits.length = i.qty.toNat ∧
      t = echoResponse { startAccess i s with
        store := { s.store with coils := Memory.writeN s.store.coils i.start.toNat bits } }) ∨
    (∃ words, i.isRead = false ∧ i.space? = some .hr ∧ words.length = i.qty.toNat ∧
      t = echoResponse { startAccess i s with
        store := { s.store with hr := Memory.writeN s.store.hr i.start.toNat words } }) := by
  cases i with
  | illegal id fc p => simp [requestAccess] at h
  | rc id b | rdi id b =>
    refine .inl ?_
    simp only [requestAccess, readBits, Option.map_eq_some_iff] at h
    obtain ⟨bits, hr, rfl⟩ := h
    have hl := ((Memory.readN_eq_some_iff _ _ _ _).1 hr).1
    simp only [requestShape, shapeOk_iff, fnQmax] at hs
    exact ⟨_, by simp only [packBits_length, ceil8, hl]; omega, rfl, rfl⟩
  | rhr id b | rir id b =>
    refine .inl ?_
    simp only [requestAccess, readWords, Option.map_eq_some_iff] at h
    obtain ⟨ws, hr, rfl⟩ := h
    have hl := ((Memory.readN_eq_some_iff _ _ _ _).1 hr).1
    simp only [requestShape, shapeOk_iff, fnQmax] at hs
    exact ⟨_, by simp only [packWords_length, hl]; omega, rfl, rfl⟩
  | wsc id b | wmc id b =>
    refine .inr (.inl ?_)
    simp only [requestAccess, writeCoils, Option.map_eq_some_iff] at h
    obtain ⟨m, hm, rfl⟩ := h
    obtain ⟨rfl, -⟩ := Memory.storeN_some hm
    exact ⟨_, rfl, rfl, by simp [Instr.qty], rfl⟩
  | wsr id b | wmr id b =>
    refine .inr (.inr ?_)
    simp only [requestAccess, writeRegisters, Option.map_eq_some_iff] at h
    obtain ⟨m, hm, rfl⟩ := h
    obtain ⟨rfl, -⟩ := Memory.storeN_some hm
    exact ⟨_, rfl, rfl, by simp [Instr.qty], rfl⟩

/-- THE INVERSION OF A DISPATCH: if `exec` answers a next state, it raised an exception 1, 2 or 3, or a legal read built its
response, or a legal write replaced cells of `COILS` or of `HR`. -/
theorem exec_next_cases {i : Instr} {s t : State} (h : exec i s = .next t) :
    (∃ c, c ≠ .deviceFailure ∧ t = raised i c s) ∨
    (requestShape i = true ∧ ∃ data, data.length ≤ 250 ∧ i.isRead = true ∧
      t = concludeDispatch (readResponse data (startAccess i s))) ∨
    (requestShape i = true ∧ ∃ bits, i.isRead = false ∧ i.space? = some .coils ∧ bits.length = i.qty.toNat ∧
      t = concludeDispatch (echoResponse { startAccess i s with
        store := { s.store with coils := Memory.writeN s.store.coils i.start.toNat bits } })) ∨
    (requestShape i = true ∧ ∃ words, i.isRead = false ∧ i.space? = some .hr ∧ words.length = i.qty.toNat ∧
      t = concludeDispatch (echoResponse { startAccess i s with
        store := { s.store with hr := Memory.writeN s.store.hr i.start.toNat words } })) := by
  cases hsp : i.space? with
  | none =>
    cases i <;> simp only [Instr.space?, reduceCtorEq] at hsp
    rw [exec_illegal] at h
    exact .inl ⟨.illegalFunction, by simp, by simpa using h.symm⟩
  | some sp =>
    rw [exec_eq i sp s hsp] at h
    split at h
    · rename_i c hc
      exact .inl ⟨c, fun e => firstFailure_ne_device _ _ _ (e ▸ hc), by simpa using h.symm⟩
    · rename_i hn
      have hs := ((firstFailure_none_iff _ _ _).1 hn).2.1
      refine .inr ?_
      split at h
      · rename_i u hu
        obtain rfl : concludeDispatch u = t := by simpa using h
        rcases requestAccess_cases hs hu with ⟨d, h1, h2, rfl⟩ | ⟨b, h1, h2, h3, rfl⟩ | ⟨b, h1, h2, h3, rfl⟩
        · exact .inl ⟨hs, d, h1, h2, rfl⟩
        · exact .inr (.inl ⟨hs, b, h1, hsp ▸ h2, h3, rfl⟩)
        · exact .inr (.inr ⟨hs, b, h1, hsp ▸ h2, h3, rfl⟩)
      · simp at h

end Sys2Proof.Machine
end

