-- ==== Sys2Proof/Laws/Step.lean ====
section
/-! SUPPORT. What a step of the machine can do, said once: an engine step by its enabled rule, or an action of another agent. -/

namespace Sys2Proof.Machine

/-! ### The enabled rule looks at no event, script or wait -/

@[simp] theorem enabledRule_clearEvent (s : State) : enabledRule (clearEvent s) = enabledRule s := rfl

@[simp] theorem enabledRule_rearm (s : State) : enabledRule (rearm s) = enabledRule s := rfl

@[simp] theorem enabledRule_withScript (s : State) (rest : List Action) :
    enabledRule { s with script := rest } = enabledRule s := rfl

@[simp] theorem enabledRule_afterTurn (s : State) (rest : List Action) : enabledRule (afterTurn s rest) = enabledRule s := rfl

@[simp] theorem enabledRule_withTxEnLine (present : Bool) (s : State) :
    enabledRule (withTxEnLine present s) = enabledRule s := rfl

/-- The state a step works on: the event of the step before is over, and `rest` of the script is left. -/
def begun (s : State) (rest : List Action) : State := { clearEvent s with script := rest }

@[simp] theorem begun_par (s : State) (rest : List Action) : (begun s rest).par = s.par := rfl
@[simp] theorem begun_phase (s : State) (rest : List Action) : (begun s rest).phase = s.phase := rfl
@[simp] theorem begun_len (s : State) (rest : List Action) : (begun s rest).len = s.len := rfl
@[simp] theorem begun_conf (s : State) (rest : List Action) : (begun s rest).conf = s.conf := rfl
@[simp] theorem begun_tMark (s : State) (rest : List Action) : (begun s rest).tMark = s.tMark := rfl
@[simp] theorem begun_req (s : State) (rest : List Action) : (begun s rest).req = s.req := rfl
@[simp] theorem begun_quietOk (s : State) (rest : List Action) : (begun s rest).quietOk = s.quietOk := rfl
@[simp] theorem begun_exc (s : State) (rest : List Action) : (begun s rest).exc = s.exc := rfl
@[simp] theorem begun_respLen (s : State) (rest : List Action) : (begun s rest).respLen = s.respLen := rfl
@[simp] theorem begun_buf (s : State) (rest : List Action) : (begun s rest).buf = s.buf := rfl
@[simp] theorem begun_txEn (s : State) (rest : List Action) : (begun s rest).txEn = s.txEn := rfl
@[simp] theorem begun_store (s : State) (rest : List Action) : (begun s rest).store = s.store := rfl
@[simp] theorem begun_rxq (s : State) (rest : List Action) : (begun s rest).rxq = s.rxq := rfl
@[simp] theorem begun_tx (s : State) (rest : List Action) : (begun s rest).tx = s.tx := rfl
@[simp] theorem begun_txBusy (s : State) (rest : List Action) : (begun s rest).txBusy = s.txBusy := rfl
@[simp] theorem begun_now (s : State) (rest : List Action) : (begun s rest).now = s.now := rfl
@[simp] theorem begun_waited (s : State) (rest : List Action) : (begun s rest).waited = s.waited := rfl
@[simp] theorem begun_free (s : State) (rest : List Action) : (begun s rest).free = s.free := rfl
@[simp] theorem begun_script (s : State) (rest : List Action) : (begun s rest).script = rest := rfl
@[simp] theorem begun_res (s : State) (rest : List Action) : (begun s rest).res = { s.res with valid := false } := rfl

@[simp] theorem enabledRule_begun (s : State) (rest : List Action) : enabledRule (begun s rest) = enabledRule s := rfl

@[simp] theorem rearm_begun (s : State) (rest : List Action) : rearm (begun s rest) = afterTurn s rest := rfl

/-! ### Engine steps -/

/-- The clock waits for an enabled rule that has waited long enough. -/
theorem mayTick_false {s : State} {r : Rule} (hr : enabledRule s = some r) (hw : s.par.stepLatency ≤ s.waited) :
    mayTick s = false := by
  simp [mayTick, hr, Nat.not_lt.2 hw]

/-- The clock waits only for a rule that has waited long enough. -/
theorem latency_of_not_mayTick {s : State} (h : ¬ mayTick s = true) : s.par.stepLatency ≤ s.waited := by
  simp only [mayTick, Bool.or_eq_true, decide_eq_true_eq, not_or] at h
  omega

/-- On the engine's turn an enabled rule fires. -/
theorem step_of_turn {s : State} {rest : List Action} {r : Rule} (ht : EngineTurn s rest) (hr : enabledRule s = some r) :
    step s = mapNext rearm (fire r (begun s rest)) := by
  have e : ∀ l, engineStep { clearEvent s with script := l } = mapNext rearm (fire r (begun s l)) := by
    intro l
    have : enabledRule { clearEvent s with script := l } = some r := hr
    simp only [engineStep, this]
    rfl
  have hr' : enabledRule (clearEvent s) = some r := hr
  rcases ht with h | ⟨h, rfl⟩ | ⟨n, tail, h, hw, rfl⟩
  · simp only [step, agentsStep, agentsAct, clearEvent_script, h]
    exact e rest
  · have e0 : { clearEvent s with script := [] } = clearEvent s := by rw [← h]; rfl
    simp only [step, agentsStep, agentsAct, clearEvent_script, h, hr', Option.isSome_some, if_true]
    rw [← e [], e0]
  · have e0 : { clearEvent s with script := s.script } = clearEvent s := rfl
    have hm : mayTick (clearEvent s) = false := mayTick_false hr' hw
    simp only [step, agentsStep, agentsAct, clearEvent_script]
    split <;> rename_i hs <;> rw [h] at hs <;> simp at hs
    rw [hm]
    simp only [Bool.false_eq_true, if_false]
    rw [← e s.script, e0]

/-- What a step that answers a next state did: an engine rule fired, nothing happened, the clock ticked, or the line, the host or
the reset input acted. -/
theorem step_cases {s t : State} (h : step s = .next t) :
    (∃ rest r u, EngineTurn s rest ∧ enabledRule s = some r ∧ fire r (begun s rest) = .next u ∧ t = rearm u) ∨
    (∃ rest, t = begun s rest) ∨
    (∃ rest, mayTick s = true ∧ t = tick (begun s rest)) ∨
    (∃ b rest, s.script = .receive b :: rest ∧ t = settle s (lineAppend b (begun s rest))) ∨
    (∃ rest, s.script = .txDone :: rest ∧ t = settle s (lineDone (begun s rest))) ∨
    (∃ op rest, s.script = .host op :: rest ∧ t = settle s (hostOp op (begun s rest))) ∨
    (∃ rest, s.script = .reset :: rest ∧ t = engineReset (begun s rest)) := by
  have engine : ∀ rest, EngineTurn s rest → engineStep (begun s rest) = .next t →
      (∃ rest r u, EngineTurn s rest ∧ enabledRule s = some r ∧ fire r (begun s rest) = .next u ∧ t = rearm u) ∨
      (∃ rest, t = begun s rest) := by
    intro rest ht he
    simp only [engineStep, enabledRule_begun] at he
    split at he
    · rename_i r hr
      refine .inl ⟨rest, r, ?_⟩
      cases hf : fire r (begun s rest) with
      | next u =>
        rw [hf] at he
        exact ⟨u, ht, hr, rfl, (Host.Outcome.next.inj he).symm⟩
      | fault f => simp [hf, mapNext] at he
      | refused f => simp [hf, mapNext] at he
    · exact .inr ⟨rest, (Host.Outcome.next.inj he).symm⟩
  have e0 : ∀ l, s.script = l → clearEvent s = begun s l := by rintro l rfl; rfl
  simp only [step, agentsStep, agentsAct, clearEvent_script] at h
  split at h
  · rename_i hs
    split at h
    · rw [e0 [] hs] at h
      rcases engine [] (.inr (.inl ⟨hs, rfl⟩)) h with h | h
      · exact .inl h
      · exact .inr (.inl h)
    · rename_i hn
      rw [e0 [] hs] at h
      refine .inr (.inr (.inl ⟨[], ?_, (Host.Outcome.next.inj h).symm⟩))
      simp only [enabledRule_clearEvent] at hn
      simp [mayTick, Option.not_isSome_iff_eq_none.1 hn]
  · rename_i rest hs
    rcases engine rest (.inl hs) h with h | h
    · exact .inl h
    · exact .inr (.inl h)
  · rename_i rest hs
    exact .inr (.inl ⟨rest, (Host.Outcome.next.inj h).symm⟩)
  · rename_i n rest hs
    split at h
    · rename_i hm
      exact .inr (.inr (.inl ⟨.wait n :: rest, hm, (Host.Outcome.next.inj h).symm⟩))
    · rename_i hm
      rw [e0 _ rfl] at h
      have : s.par.stepLatency ≤ s.waited := latency_of_not_mayTick hm
      rcases engine s.script (.inr (.inr ⟨n, rest, hs, this, rfl⟩)) h with h | h
      · exact .inl h
      · exact .inr (.inl h)
  · rename_i b rest hs
    exact .inr (.inr (.inr (.inl ⟨b, rest, hs, (Host.Outcome.next.inj h).symm⟩)))
  · rename_i rest hs
    exact .inr (.inr (.inr (.inr (.inl ⟨rest, hs, (Host.Outcome.next.inj h).symm⟩))))
  · rename_i op rest hs
    exact .inr (.inr (.inr (.inr (.inr (.inl ⟨op, rest, hs, (Host.Outcome.next.inj h).symm⟩)))))
  · rename_i rest hs
    exact .inr (.inr (.inr (.inr (.inr (.inr ⟨rest, hs, (Host.Outcome.next.inj h).symm⟩)))))

/-! ### The three rules that read the frame buffer -/

/-- What a `VALIDATE` that answers a next state did: it rejected the frame, or it read it and accepted it. -/
theorem validateStep_cases {s u : State} (h : validateStep s = .next u) :
    u = rejectFrame s ∨
    (u = acceptFrame s ∧ s.quietOk = true ∧ 4 ≤ s.len.toNat ∧
      ∃ frame, readBuf s s.len.toNat = .ok frame ∧ frameMatches s frame = true) := by
  simp only [validateStep] at h
  split at h
  · rename_i hq
    simp only [Bool.and_eq_true, decide_eq_true_eq] at hq
    split at h
    · rename_i frame hf
      obtain rfl := Host.Outcome.next.inj h
      split
      · rename_i hm
        exact .inr ⟨rfl, hq.1, hq.2, frame, hf, hm⟩
      · exact .inl rfl
    · simp at h
  · exact .inl (Host.Outcome.next.inj h).symm

/-- What a `DISPATCH` that answers a next state did: it fetched a frame, decoded it and ran the request. -/
theorem dispatchStep_cases {s u : State} (h : dispatchStep s = .next u) :
    ∃ frame i, readBuf s s.len.toNat = .ok frame ∧ decode frame = .ok i ∧ exec i s = .next u := by
  simp only [dispatchStep] at h
  split at h
  · simp at h
  · rename_i frame hf
    split at h
    · rename_i i hi
      exact ⟨frame, i, hf, hi, h⟩
    · simp at h
    · simp at h

/-- What an `EMIT` that answers a next state did: it read the response body, signed it and handed it over. -/
theorem emitStep_cases {s u : State} (h : emitStep s = .next u) :
    ∃ body, readBuf s s.respLen.toNat = .ok body ∧ s.respLen.toNat + 2 ≤ 256 ∧
      u = { transmit (sign body) (writeBuf s.respLen.toNat (crcField body) s) with txEn := true, phase := .flush } := by
  simp only [emitStep] at h
  split at h
  · simp at h
  · rename_i hc
    have hcap : bufCap = 256 := rfl
    split at h
    · rename_i body hb
      exact ⟨body, hb, by omega, (Host.Outcome.next.inj h).symm⟩
    · simp at h

/-! ### What the other agents leave -/

/-- What a received byte changes: the queue, if anything (R37). -/
theorem lineAppend_cases (b : Byte) (s : State) : lineAppend b s = s ∨ lineAppend b s = { s with rxq := s.rxq ++ [b] } := by
  simp only [lineAppend]
  split
  · split
    · exact .inl rfl
    · exact .inr rfl
  · exact .inr rfl

/-- What a host operation can do: nothing, INIT in UNCONF or IDLE, or changes to the descriptors and the regions alone. -/
theorem hostOp_cases (op : HostOp) (s : State) :
    hostOp op s = s ∨
    (hostReady s = true ∧ ∃ id baud parity stop2, op = .init id baud parity stop2 ∧ 0 < baud.toNat ∧
      hostOp op s = startDrain (setTimeouts baud parity stop2 (assignAddress id s))) ∨
    (∃ conf store, hostOp op s = { s with conf := conf, store := store } ∧ conf.stationId = s.conf.stationId ∧
      conf.idAssigned = s.conf.idAssigned ∧ conf.charTimeout = s.conf.charTimeout ∧
      conf.frameTimeout = s.conf.frameTimeout) := by
  cases op <;> simp only [hostOp]
  case init id baud parity stop2 =>
    simp only [hostInit]
    split
    · rename_i h
      simp only [Bool.and_eq_true, decide_eq_true_eq] at h
      exact .inr (.inl ⟨h.1, id, baud, parity, stop2, rfl, h.2, rfl⟩)
    · exact .inl rfl
  case cfgCoils =>
    simp only [hostCfgCoils]
    split
    · exact .inr (.inr ⟨_, _, rfl, rfl, rfl, rfl, rfl⟩)
    · exact .inl rfl
  case cfgDi =>
    simp only [hostCfgDi]
    split
    · exact .inr (.inr ⟨_, _, rfl, rfl, rfl, rfl, rfl⟩)
    · exact .inl rfl
  case cfgHr =>
    simp only [hostCfgHr]
    split
    · exact .inr (.inr ⟨_, _, rfl, rfl, rfl, rfl, rfl⟩)
    · exact .inl rfl
  case cfgIr =>
    simp only [hostCfgIr]
    split
    · exact .inr (.inr ⟨_, _, rfl, rfl, rfl, rfl, rfl⟩)
    · exact .inl rfl
  case readCell => exact .inl trivial
  all_goals exact .inr (.inr ⟨s.conf, _, rfl, rfl, rfl, rfl, rfl⟩)

/-- Equal configuration registers give equal descriptors. -/
theorem descriptor_congr {s t : State} (h : t.conf = s.conf) (sp : Space) : descriptor t sp = descriptor s sp := by
  cases sp <;> simp [descriptor, h]

/-- The enabled rule belongs to its phase. -/
theorem phase_of_enabledRule {s : State} {r : Rule} (h : enabledRule s = some r) :
    (r = .drainDiscard ∨ r = .drainQuiet) ∧ s.phase = .drain ∨ r = .idleStart ∧ s.phase = .idle ∨
    (r = .recvFull ∨ r = .recvExpire ∨ r = .recvByte) ∧ s.phase = .recv ∨ r = .quietEnd ∧ s.phase = .quiet ∨
    r = .validate ∧ s.phase = .validate ∨ r = .dispatch ∧ s.phase = .dispatch ∨ r = .emit ∧ s.phase = .emit ∨
    r = .flushDone ∧ s.phase = .flush := by
  simp only [enabledRule] at h
  cases hp : s.phase <;> simp only [hp] at h <;> (try split at h) <;> (try split at h) <;> (try split at h) <;> (try split at h) <;>
    simp only [Option.some.injEq, reduceCtorEq] at h <;> subst h <;> simp

end Sys2Proof.Machine
end

