-- ==== Sys2Proof/Tests/Slice0.lean ====
section
/-! SUPPORT. The model's own tests. Expected values come from spec/95_test_vectors.md (the vector is named in each test) or from the
rule named; the witnesses show that the hypotheses of the statements can be met together. -/

namespace Sys2Proof.Tests
set_option Elab.async false
open Machine

/-! ### Small states -/

/-- The next state, if there is one. -/
def next? : Result → Option State
  | .next t => some t
  | .fault _ => none
  | .refused _ => none

/-- Station 1 at 9600 8N1 (part 2 of 95_test_vectors.md), in IDLE, with the given cells. -/
def station (coils di : List Bool) (hr ir : List Word) : State :=
  { State.reset with
    phase := .idle
    conf := { stationId := 1, idAssigned := true, charTimeout := 2604, frameTimeout := 4687,
              coils := ⟨true, BitVec.ofNat 16 coils.length⟩, di := ⟨true, BitVec.ofNat 16 di.length⟩,
              hr := ⟨true, BitVec.ofNat 16 hr.length⟩, ir := ⟨true, BitVec.ofNat 16 ir.length⟩ }
    store := { coils := .ofArray coils, di := .ofArray di, hr := .ofArray hr, ir := .ofArray ir } }

/-- The regions of 2.5: the first 16 coils, the 20 discrete inputs, the first 10 holding registers, the 4 input registers. -/
def reading : State :=
  station ((List.range 16).map fun i => decide ((7 * i + 3) % 5 < 2)) ((List.range 20).map fun i => decide (i % 3 = 0))
    ((List.range 10).map fun i => BitVec.ofNat 16 (0x0100 + i)) ((List.range 4).map fun i => BitVec.ofNat 16 (0xFFFF - i))

/-- The regions of 2.6: 16 coils and 10 holding registers, all 0. -/
def writing : State := station (List.replicate 16 false) [] (List.replicate 10 0) []

/-- `s` with a frame in the buffer, in a phase that holds it. -/
def holding (p : Phase) (frame : List Byte) (s : State) : State :=
  { s with phase := p, buf := Memory.ofArray frame, len := BitVec.ofNat 9 frame.length, quietOk := true }

/-- `s` in EMIT with a response body in the buffer. -/
def emitting (body : List Byte) (s : State) : State :=
  { s with phase := .emit, buf := Memory.ofArray body, respLen := BitVec.ofNat 9 body.length, req := ⟨1, 3, 0, 1⟩ }

/-- The response body a request leaves in the buffer, and its report. -/
def served (s : State) (frame : List Byte) : Option (Option (List Byte) × List Nat × Phase) :=
  (next? (step (holding .dispatch frame s))).map fun t =>
    (Memory.readN t.buf 0 t.respLen.toNat, [t.res.fc.toNat, t.res.exc.toNat, t.res.start.toNat, t.res.qty.toNat], t.phase)

/-! ### WellFormed refuses the ill-formed (one term for each check) -/

theorem test_wf_q8_misfit_of_four : (Instr.rc 1 (.misfit [0, 0, 0, 1])).wf = false := by decide +kernel
theorem test_wf_q8_too_long : (Instr.wsr 1 (.misfit (List.replicate 253 0))).wf = false := by decide +kernel
theorem test_wf_qm_too_long : (Instr.wmc 1 (.fit 0 1 (List.replicate 248 0))).wf = false := by decide +kernel
theorem test_wf_qm_misfit_that_fits : (Instr.wmr 1 (.misfit [0, 0, 0, 1, 2, 0xAA, 0x55])).wf = false := by decide +kernel
theorem test_wf_qm_misfit_too_long : (Instr.wmr 1 (.misfit (List.replicate 253 0))).wf = false := by decide +kernel
theorem test_wf_illegal_with_legal_code : (Instr.illegal 1 0x10 []).wf = false := by decide +kernel
theorem test_wf_illegal_too_long : (Instr.illegal 1 0x07 (List.replicate 253 0)).wf = false := by decide +kernel

/-! ### Decoding: words written out from the encodings of 30_encoding.md -/

/-- F1. -/
theorem test_decode_rc : decode [0x01, 0x01, 0x00, 0x00, 0x00, 0x01, 0xFD, 0xCA] = .ok (.rc 1 (.fit 0 1)) := by decide +kernel
/-- F10. -/
theorem test_decode_rdi : decode [0x01, 0x02, 0x00, 0x11, 0x00, 0x03, 0x68, 0x0E] = .ok (.rdi 1 (.fit 17 3)) := by decide +kernel
/-- F13: the start address is high byte first. -/
theorem test_decode_rhr : decode [0x01, 0x03, 0x00, 0x80, 0x00, 0x02, 0xC5, 0xE3] = .ok (.rhr 1 (.fit 128 2)) := by decide +kernel
/-- F16. -/
theorem test_decode_rir : decode [0x01, 0x04, 0x00, 0x00, 0x00, 0x04, 0xF1, 0xC9] = .ok (.rir 1 (.fit 0 4)) := by decide +kernel
/-- X6. -/
theorem test_decode_wsc : decode [0x01, 0x05, 0x00, 0x02, 0xFF, 0x01, 0xEC, 0x3A] = .ok (.wsc 1 (.fit 2 0xFF01)) := by decide +kernel
/-- X13, to the broadcast address. -/
theorem test_decode_wsr : decode [0x00, 0x06, 0x00, 0x04, 0xBE, 0xEF, 0xF9, 0xF6] = .ok (.wsr 0 (.fit 4 0xBEEF)) := by decide +kernel
/-- X14. -/
theorem test_decode_wmc : decode [0x01, 0x0F, 0x00, 0x03, 0x00, 0x0A, 0x02, 0xCD, 0x01, 0x70, 0x5B] =
    .ok (.wmc 1 (.fit 3 10 [0xCD, 0x01])) := by decide +kernel
/-- V25: byte count 2, one data byte. -/
theorem test_decode_wmc_misfit : decode [0x01, 0x0F, 0x00, 0x00, 0x00, 0x0A, 0x02, 0xFF, 0x1F, 0xE5] =
    .ok (.wmc 1 (.misfit [0x00, 0x00, 0x00, 0x0A, 0x02, 0xFF])) := by decide +kernel
/-- X20. -/
theorem test_decode_wmr : decode [0x01, 0x10, 0x00, 0x01, 0x00, 0x02, 0x04, 0x00, 0x0A, 0x01, 0x02, 0x92, 0x30] =
    .ok (.wmr 1 (.fit 1 2 [0x00, 0x0A, 0x01, 0x02])) := by decide +kernel
/-- V2. -/
theorem test_decode_illegal : decode [0x01, 0x2B, 0x0E, 0x01, 0x00, 0x70, 0x77] = .ok (.illegal 1 0x2B [0x0E, 0x01, 0x00]) := by
  decide +kernel
/-- A7: three bytes are no frame (R101). -/
theorem test_decode_short : decode [0x01, 0x03, 0x40] = .error .shortFrame := by decide +kernel
/-- R106: 257 bytes are no frame. -/
theorem test_decode_long : decode (List.replicate 257 0) = .error .longFrame := by decide +kernel
/-- X1, encoded. -/
theorem test_encode_wsc : encode (.wsc 1 (.fit 2 0xFF00)) = [0x01, 0x05, 0x00, 0x02, 0xFF, 0x00, 0x2D, 0xFA] := by decide +kernel
/-- No two rows of the opcode table match the same function-code byte (R69). -/
theorem test_table_rows_disjoint : opcodeTable.Pairwise fun a b => a.pattern &&& b.mask ≠ b.pattern &&& a.mask := by decide +kernel

/-! ### CRC engine and timing model -/

/-- K9, with the trace of 41_crc_engine.md. -/
theorem test_crc_mrs_vector : crc16 [0x02, 0x07] = 0x1241 := by decide +kernel
/-- K8, the catalogue check value. -/
theorem test_crc_check_value : crc16 [0x31, 0x32, 0x33, 0x34, 0x35, 0x36, 0x37, 0x38, 0x39] = 0x4B37 := by decide +kernel
/-- T5 and T6: the last rate of one branch and the first of the other. -/
theorem test_timing_threshold :
    (charTimeoutOf 19200 (bitsPerChar .even false), frameTimeoutOf 19200 (bitsPerChar .odd false)) = (1432, 2578) ∧
    (charTimeoutOf 19201 (bitsPerChar .even false), frameTimeoutOf 19201 (bitsPerChar .odd false)) = (1322, 2322) := by decide +kernel
/-- T10: the largest results. -/
theorem test_timing_largest : (charTimeoutOf 1 (bitsPerChar .odd true), frameTimeoutOf 1 (bitsPerChar .even true)) =
    (30000000, 54000000) := by decide +kernel

/-! ### One step of each function -/

/-- F4: start not a multiple of 8. -/
theorem test_rc_unaligned_start : served reading [0x01, 0x01, 0x00, 0x05, 0x00, 0x0B, 0x6D, 0xCC] =
    some (some [0x01, 0x01, 0x02, 0x52, 0x02], [1, 0, 5, 11], .emit) := by decide +kernel
/-- V7: the region check comes before the quantity check. -/
theorem test_rc_region_before_shape :
    served { reading with conf := { reading.conf with coils := .reset } } [0x01, 0x01, 0x00, 0x00, 0x00, 0x00, 0x3C, 0x0A] =
    some (some [0x01, 0x81, 0x01], [1, 1, 0, 0], .emit) := by decide +kernel
/-- F9: the whole region, 20 cells. -/
theorem test_rdi_whole_region : served reading [0x01, 0x02, 0x00, 0x00, 0x00, 0x14, 0x78, 0x05] =
    some (some [0x01, 0x02, 0x03, 0x49, 0x92, 0x04], [2, 0, 0, 20], .emit) := by decide +kernel
/-- F11: one cell too far. -/
theorem test_rdi_out_of_range : served reading [0x01, 0x02, 0x00, 0x12, 0x00, 0x03, 0x98, 0x0E] =
    some (some [0x01, 0x82, 0x02], [2, 2, 18, 3], .emit) := by decide +kernel
/-- F12. -/
theorem test_rhr_one : served reading [0x01, 0x03, 0x00, 0x00, 0x00, 0x01, 0x84, 0x0A] =
    some (some [0x01, 0x03, 0x02, 0x01, 0x00], [3, 0, 0, 1], .emit) := by decide +kernel
/-- V20: one byte too many. -/
theorem test_rhr_long_frame : served reading [0x01, 0x03, 0x00, 0x00, 0x00, 0x01, 0x00, 0x0A, 0x63] =
    some (some [0x01, 0x83, 0x03], [3, 3, 0, 1], .emit) := by decide +kernel
/-- F16. -/
theorem test_rir_whole_region : served reading [0x01, 0x04, 0x00, 0x00, 0x00, 0x04, 0xF1, 0xC9] =
    some (some [0x01, 0x04, 0x08, 0xFF, 0xFF, 0xFF, 0xFE, 0xFF, 0xFD, 0xFF, 0xFC], [4, 0, 0, 4], .emit) := by decide +kernel
/-- F18: start = length. -/
theorem test_rir_start_at_length : served reading [0x01, 0x04, 0x00, 0x04, 0x00, 0x01, 0x70, 0x0B] =
    some (some [0x01, 0x84, 0x02], [4, 2, 4, 1], .emit) := by decide +kernel
/-- X1. -/
theorem test_wsc_on : served writing [0x01, 0x05, 0x00, 0x02, 0xFF, 0x00, 0x2D, 0xFA] =
      some (some [0x01, 0x05, 0x00, 0x02, 0xFF, 0x00], [5, 0, 2, 1], .emit) ∧
    ((next? (exec (.wsc 1 (.fit 2 0xFF00)) writing)).map fun t => (t.store.coils.filter Prod.snd).map Prod.fst) = some [2] := by
  decide +kernel
/-- X5: an illegal value. -/
theorem test_wsc_illegal_value : served writing [0x01, 0x05, 0x00, 0x02, 0x00, 0xFF, 0x2C, 0x4A] =
    some (some [0x01, 0x85, 0x03], [5, 3, 2, 1], .emit) := by decide +kernel
/-- X13: broadcast, so no response. -/
theorem test_wsr_broadcast :
    ((next? (step (holding .dispatch [0x00, 0x06, 0x00, 0x04, 0xBE, 0xEF, 0xF9, 0xF6] writing))).map fun t =>
      (Memory.read t.store.hr 4, t.phase, t.tx)) = some (some 0xBEEF, .idle, []) := by decide +kernel
/-- V21: the value bytes are absent. -/
theorem test_wsr_short_frame : served writing [0x01, 0x06, 0x00, 0x03, 0xA1, 0xD8] =
    some (some [0x01, 0x86, 0x03], [6, 3, 3, 1], .emit) := by decide +kernel
/-- X14. -/
theorem test_wmc_coils :
    ((next? (step (holding .dispatch [0x01, 0x0F, 0x00, 0x03, 0x00, 0x0A, 0x02, 0xCD, 0x01, 0x70, 0x5B] writing))).map fun t =>
      (t.store.coils.filter Prod.snd).map Prod.fst) = some [3, 5, 6, 9, 10, 11] := by decide +kernel
/-- X18: whole, or not at all. -/
theorem test_wmc_out_of_range : served writing [0x01, 0x0F, 0x00, 0x0F, 0x00, 0x02, 0x01, 0x03, 0xCA, 0x97] =
    some (some [0x01, 0x8F, 0x02], [15, 2, 15, 2], .emit) := by decide +kernel
/-- X20. -/
theorem test_wmr_registers :
    ((next? (step (holding .dispatch [0x01, 0x10, 0x00, 0x01, 0x00, 0x02, 0x04, 0x00, 0x0A, 0x01, 0x02, 0x92, 0x30] writing))).map
      fun t => t.store.hr.take 4) = some [(0, 0), (1, 0x000A), (2, 0x0102), (3, 0)] := by decide +kernel
/-- X23: byte count 3 for two registers. -/
theorem test_wmr_byte_count : served writing [0x01, 0x10, 0x00, 0x01, 0x00, 0x02, 0x03, 0x00, 0x0A, 0x01, 0x02, 0x27, 0xF0] =
    some (some [0x01, 0x90, 0x03], [16, 3, 1, 2], .emit) := by decide +kernel
/-- V1: with no region configured. -/
theorem test_illegal_unconfigured : served { State.reset with phase := .idle } [0x01, 0x07, 0x41, 0xE2] =
    some (some [0x01, 0x87, 0x01], [7, 1, 0, 0], .emit) := by decide +kernel
/-- V4: a code with bit 7 set already. -/
theorem test_illegal_exception_code : served reading [0x01, 0x83, 0x01, 0x80, 0xF0] =
    some (some [0x01, 0x83, 0x01], [0x83, 1, 0, 0], .emit) := by decide +kernel

/-! ### The other phases and agents -/

/-- S5: the frame is accepted, and with bit 0 of byte 5 flipped rejected. -/
theorem test_validate_bit_flip :
    ((next? (step (holding .validate [0x01, 0x06, 0x00, 0x03, 0x00, 0xFF, 0x39, 0x8A] writing))).map State.phase) = some .dispatch ∧
    ((next? (step (holding .validate [0x01, 0x06, 0x00, 0x03, 0x00, 0xFE, 0x39, 0x8A] writing))).map State.phase) = some .idle := by
  decide +kernel
/-- A11: another station's frame. -/
theorem test_validate_other_station :
    ((next? (step (holding .validate [0x02, 0x03, 0x00, 0x00, 0x00, 0x01, 0x84, 0x39] writing))).map fun t => (t.phase, t.res)) =
    some (.idle, ⟨0, 0, 0, 0, true⟩) := by decide +kernel
/-- E2: the exception response on the line. -/
theorem test_emit_response :
    ((next? (step (emitting [0x01, 0x83, 0x02] writing))).map fun t => (t.tx, t.txEn, t.phase)) =
    some ([0x01, 0x83, 0x02, 0xC0, 0xF1], true, .flush) := by decide +kernel
/-- A2 and A3: a gap equal to `char_timeout` is not exceeded, one microsecond more is. -/
theorem test_recv_gap :
    ((next? (step { writing with phase := .recv, len := 4, tMark := 13123, now := 15727, rxq := [0x00] })).map State.len) = some 5 ∧
    ((next? (step { writing with phase := .recv, len := 4, tMark := 13123, now := 15728, rxq := [0x00] })).map State.phase) =
      some .quiet := by decide +kernel
/-- H10: `baud = 0` is refused. -/
theorem test_init_baud_zero :
    ((next? (step { State.reset with script := [.host (.init 1 0 .none false)] })).map fun t => (t.phase, t.conf)) =
    some (.unconf, ConfRegs.reset) := by decide +kernel
/-- H7: 8O2 counts 12 bits. -/
theorem test_init_timeouts :
    ((next? (step { State.reset with script := [.host (.init 17 19200 .odd true)] })).map fun t =>
      (t.conf.stationId, t.conf.charTimeout, t.conf.frameTimeout, t.phase)) = some (17, 1562, 2812, .drain) := by decide +kernel
/-- H5: 255 leaves the address unassigned. -/
theorem test_init_unassigned :
    ((next? (step { State.reset with script := [.host (.init 255 9600 .none false)] })).map fun t => t.conf.idAssigned) =
    some false := by decide +kernel
/-- The opcode-table word of `RHR` is fetched and run as the first instruction after reset: no region, exception 1 (R116). -/
theorem test_fetch_word_from_reset :
    ((next? (step (State.reset.withFetchWord 8 0x03))).map fun t => (t.res.fc, t.res.exc, t.phase)) = some (3, 1, .idle) ∧
    decodeTableWord 8 0x03 = some (.rhr 0 (.fit 0 0)) := by decide +kernel

/-! ### Witnesses: the hypotheses of each statement, met together by a concrete state and operands -/

theorem turn_of_empty {s : State} (h : s.script = []) : EngineTurn s [] := .inr (.inl ⟨h, rfl⟩)

/-- The other two turns: the script says so, and the clock waits for an enabled rule that has waited long enough. -/
theorem witness_engine_turns :
    EngineTurn { writing with script := [.engine, .txDone] } [.txDone] ∧
    EngineTurn { writing with script := [.wait 3], rxq := [0x55] } [.wait 3] :=
  ⟨.inl rfl, .inr (.inr ⟨2, [], rfl, by decide, rfl⟩)⟩

/-- DecodeOfEncodeIsIdentity: the longest forms of each shape, and the empty payload. -/
theorem witness_DecodeOfEncode :
    (Instr.rc 1 (.fit 0 1)).wf = true ∧ (Instr.wsr 1 (.misfit [])).wf = true ∧
    (Instr.rdi 1 (.misfit (List.replicate 252 0))).wf = true ∧ (Instr.wmc 1 (.fit 0 1969 (List.replicate 247 0))).wf = true ∧
    (Instr.wmr 1 (.misfit (List.replicate 252 0))).wf = true ∧ (Instr.illegal 1 0x83 (List.replicate 252 0)).wf = true := by
  decide +kernel

/-- EncodeOfDecodeIsIdentity and LatchedFieldsArePayloadBytes: A10 (4 bytes, no fields), V19 (quantity bytes absent), X9, V1. -/
theorem witness_decoded_frames :
    (decode [0x01, 0x03, 0x40, 0x21] = .ok (.rhr 1 (.misfit [])) ∧ crcMatches [0x01, 0x03, 0x40, 0x21] = true) ∧
    decode [0x01, 0x03, 0x00, 0x00, 0xF1, 0xD8] = .ok (.rhr 1 (.misfit [0, 0])) ∧
    decode [0x01, 0x06, 0x00, 0x03, 0x00, 0xFF, 0x39, 0x8A] = .ok (.wsr 1 (.fit 3 0x00FF)) ∧
    decode [0x01, 0x07, 0x41, 0xE2] = .ok (.illegal 1 7 []) := by decide +kernel

/-- DecoderSelectsByFunctionCode: the lengths where its clauses meet. -/
theorem witness_DecoderSelects :
    (List.replicate 3 (0 : Byte)).length < 4 ∧ 4 ≤ (List.replicate 4 (0 : Byte)).length ∧
    (List.replicate 256 (0 : Byte)).length ≤ 256 ∧ 256 < (List.replicate 257 (0 : Byte)).length := by decide +kernel

/-- CrcRejectsEverySingleBitFlip: the shortest frame (K1) and S5's, first bit of the first byte and last bit of the last. -/
theorem witness_CrcRejects :
    (2 ≤ [0xFF, 0xFF].length ∧ crcMatches [0xFF, 0xFF] = true ∧ 1 < [0xFF, 0xFF].length ∧ 7 < 8) ∧
    crcMatches [0x01, 0x06, 0x00, 0x03, 0x00, 0xFF, 0x39, 0x8A] = true := by decide +kernel

/-- CharTimeoutBelowFrameTimeout: the ends of the range of `baud`. -/
theorem witness_CharTimeoutBelow : (0 < 1 ∧ 1 < 2 ^ 32) ∧ (0 < 4294967295 ∧ 4294967295 < 2 ^ 32) := by decide

/-- InitSetsAddressTimeoutsAndDrains: H10's state with a legal `baud`, in both phases; the address clauses at 0, 1, 247, 248. -/
theorem witness_InitSets :
    (({ State.reset with script := [.host (.init 1 9600 .none false)] } : State).phase = .unconf ∧ 0 < (9600#32).toNat) ∧
    ({ writing with script := [.host (.init 248 1 .odd true)] } : State).phase = .idle ∧
    (1 ≤ (1#8).toNat ∧ (247#8).toNat ≤ 247) ∧ (0#8).toNat = 0 ∧ 248 ≤ (248#8).toNat := by decide

/-- CfgBindsAndSizesTheRegion and HostCellWriteChangesOneCell: each clause has its script, in a phase that admits it. -/
theorem witness_host_scripts :
    ∀ op ∈ [HostOp.cfgCoils 2 [true, false], .cfgDi 0 [], .cfgHr 1 [7], .cfgIr 1 [9], .writeCoil 0 true, .writeDi 0 true,
        .writeHr 9 1, .writeIr 0 1],
      ({ writing with script := [.host op] } : State).script = [.host op] ∧ writing.phase = .idle := by decide

/-- RefusedHostOperationChangesNothing: `baud = 0`, and a phase that refuses. -/
theorem witness_RefusedHost :
    HostOp.init 1 0 .none false = .init 1 0#32 .none false ∧
    (holding .recv [] writing).phase ≠ .unconf ∧ (holding .recv [] writing).phase ≠ .idle := by decide

/-- ResetReachesOnlyTheEngine, ReceivedByteIsQueuedOrDropped: in the middle of a transmission; a full queue. -/
theorem witness_reset_and_receive :
    ({ emitting [1, 131, 2] writing with script := [.reset, .engine] } : State).script = .reset :: [.engine] ∧
    ({ writing with script := [.receive 0x55], rxq := [1], par := { rxqDepth := some 1 } } : State).script =
      .receive 0x55 :: [] := by decide

/-- A state that meets the invariant in UNCONF (UnconfIsInertUntilInit), and steps. -/
theorem witness_inv_unconf :
    Inv { State.reset with script := [.receive 0x77] } ∧
    ∃ t, step { State.reset with script := [.receive 0x77] } = .next t :=
  ⟨⟨by decide, by decide, by decide, by decide, by decide, by decide, by intro sp; cases sp <;> decide, by decide,
    by simp [State.reset, Phase.holdsFrame], by simp [State.reset], by simp [State.reset], by decide, by decide⟩, _, rfl⟩

/-- EveryStepKeepsTheInvariant and ReachableStepsStopOnlyOnUnprovidedCells: a state in EMIT that meets the invariant, and steps. -/
theorem witness_inv_emit :
    Inv (emitting [0x01, 0x83, 0x02] writing) ∧ ∃ t, step (emitting [0x01, 0x83, 0x02] writing) = .next t := by
  refine ⟨⟨by decide +kernel, by decide +kernel, by decide, by decide, by decide, by decide, by intro sp; cases sp <;> decide,
    by decide, by simp [emitting, Phase.holdsFrame], by simp [emitting], fun _ => ⟨by decide, by decide, ?_, by decide, by decide⟩,
    by decide, by decide⟩, _, rfl⟩
  intro k hk
  have hk : k < 3 := hk
  obtain rfl | rfl | rfl : k = 0 ∨ k = 1 ∨ k = 2 := by omega
  all_goals decide

/-- DrainDiscardsUntilQuiet: each clause; `elapsed` is 4687 and 4686. -/
theorem witness_Drain :
    ({ writing with phase := .drain, rxq := [0x77] } : State).rxq = 0x77 :: [] ∧
    ({ writing with phase := .drain, now := 4687 } : State).conf.frameTimeout.toNat ≤
      elapsed { writing with phase := .drain, now := 4687 } ∧
    elapsed { writing with phase := .drain, now := 4686 } <
      ({ writing with phase := .drain, now := 4686 } : State).conf.frameTimeout.toNat ∧
    EngineTurn { writing with phase := .drain, now := 4687 } [] := ⟨rfl, by decide, by decide, turn_of_empty rfl⟩

/-- IdleStartsReceptionOnByte. -/
theorem witness_Idle : writing.phase = .idle ∧ EngineTurn writing [] ∧ writing.rxq = [] ∧
    ({ writing with rxq := [0x01] } : State).rxq ≠ [] := ⟨rfl, turn_of_empty rfl, rfl, by decide⟩

/-- RecvTestsCapacityThenTimerThenByte: 256 bytes; 255 bytes and 2605; 255 bytes and 2604 with a byte waiting, and without. -/
theorem witness_Recv :
    ({ writing with phase := .recv, len := 256 } : State).len.toNat = 256 ∧
    (({ writing with phase := .recv, len := 255, now := 2605 } : State).len.toNat < 256 ∧
      (2604#32).toNat < elapsed { writing with phase := .recv, len := 255, now := 2605 }) ∧
    elapsed { writing with phase := .recv, len := 255, now := 2604, rxq := [0x55] } ≤ (2604#32).toNat ∧
    ({ writing with phase := .recv, len := 255, now := 2604, rxq := [0x55] } : State).rxq = 0x55 :: [] ∧
    ({ writing with phase := .recv, len := 255, now := 2604 } : State).rxq = [] ∧
    EngineTurn { writing with phase := .recv, len := 255, now := 2604 } [] :=
  ⟨by decide, by decide, by decide, rfl, rfl, turn_of_empty rfl⟩

/-- QuietLatchesSilence. -/
theorem witness_Quiet :
    (4687#32).toNat ≤ elapsed { writing with phase := .quiet, now := 4687 } ∧
    elapsed { writing with phase := .quiet, now := 4686 } < (4687#32).toNat ∧
    EngineTurn { writing with phase := .quiet, now := 4687 } [] := ⟨by decide, by decide, turn_of_empty rfl⟩

/-- ValidateAcceptsExactlyMatchingFrames, the accepted case (S5) and a rejected one (A10 cut to 3 bytes). -/
theorem witness_Validate :
    (let s := holding .validate [0x01, 0x06, 0x00, 0x03, 0x00, 0xFF, 0x39, 0x8A] writing
     s.phase = .validate ∧ EngineTurn s [] ∧ s.len.toNat = 8 ∧ s.quietOk = true ∧ s.conf.idAssigned = true ∧ s.conf.stationId = 1 ∧
      crcMatches [0x01, 0x06, 0x00, 0x03, 0x00, 0xFF, 0x39, 0x8A] = true ∧
      ∀ k, k < 8 → Memory.read s.buf k = [0x01, 0x06, 0x00, 0x03, 0x00, 0xFF, 0x39, 0x8A][k]?) ∧
    (let s := holding .validate [0x01, 0x03, 0x40] writing
     s.len.toNat = 3 ∧ EngineTurn s [] ∧ (∀ k, k < 3 → Memory.read s.buf k = [0x01, 0x03, 0x40][k]?) ∧ ¬ 4 ≤ 3) :=
  ⟨⟨rfl, turn_of_empty rfl, by decide +kernel⟩, by decide, turn_of_empty rfl, by decide, by decide⟩

/-- StepRunsTheDecodedRequest. -/
theorem witness_StepRuns :
    let s := holding .dispatch [0x01, 0x03, 0x00, 0x00, 0x00, 0x01, 0x84, 0x0A] reading
    s.phase = .dispatch ∧ EngineTurn s [] ∧ fetchFrame s = .ok [0x01, 0x03, 0x00, 0x00, 0x00, 0x01, 0x84, 0x0A] ∧
      decode [0x01, 0x03, 0x00, 0x00, 0x00, 0x01, 0x84, 0x0A] = .ok (.rhr 1 (.fit 0 1)) :=
  ⟨rfl, turn_of_empty rfl, by rfl, by decide⟩

/-- AbsentRegionRaisesOne: not configured, and configured with length 0. -/
theorem witness_AbsentRegion :
    (Instr.rc 1 (.fit 0 0)).space? = some .coils ∧ (descriptor State.reset .coils).cfg = false ∧
    (Instr.rdi 1 (.fit 0 1)).space? = some .di ∧ (descriptor writing .di).len = 0#16 := by decide

theorem present_writing : Present writing .hr ∧ Present writing .coils := ⟨⟨rfl, by decide⟩, rfl, by decide⟩

/-- IllegalShapeRaisesThree: quantity 0 and 126, a misfit, a wrong byte count. -/
theorem witness_IllegalShape :
    Present writing .hr ∧ ¬ (Instr.rhr 1 (.fit 0 0)).legalShape ∧ ¬ (Instr.rhr 1 (.fit 0 126)).legalShape ∧
    (Instr.wsr 1 (.misfit [0, 3])).wf = true ∧ ¬ (Instr.wsr 1 (.misfit [0, 3])).legalShape ∧
    (Instr.wmr 1 (.fit 1 2 [0, 10, 1])).wf = true ∧ ¬ (Instr.wmr 1 (.fit 1 2 [0, 10, 1])).legalShape :=
  ⟨present_writing.1, by simp [Instr.legalShape], by simp [Instr.legalShape], by decide, id, by decide, by simp [Instr.legalShape]⟩

/-- RangeOutsideRegionRaisesTwo: the first range that leaves ten registers (V16). -/
theorem witness_RangeOutside :
    Present writing .hr ∧ (Instr.rhr 1 (.fit 9 2)).wf = true ∧ (Instr.rhr 1 (.fit 9 2)).legalShape ∧
    (descriptor writing .hr).len.toNat < (Instr.rhr 1 (.fit 9 2)).start.toNat + (Instr.rhr 1 (.fit 9 2)).qty.toNat :=
  ⟨present_writing.1, by decide, by simp [Instr.legalShape], by decide⟩

/-- The hypotheses of a bit read of 2000 cells. -/
theorem bit_read_premises (cells : List Bool) (h : cells.length = 2000) :
    Present (station cells cells [] []) .coils ∧ InRange (station cells cells [] []) .coils 0 2000 ∧
    Present (station cells cells [] []) .di ∧ InRange (station cells cells [] []) .di 0 2000 ∧
    ∀ k, k < (2000#16).toNat →
      Memory.read (station cells cells [] []).store.coils ((0#16).toNat + k) = some (cells.getD k false) ∧
      Memory.read (station cells cells [] []).store.di ((0#16).toNat + k) = some (cells.getD k false) := by
  refine ⟨by simp [Present, descriptor, station, h], by simp [InRange, descriptor, station, h],
    by simp [Present, descriptor, station, h], by simp [InRange, descriptor, station, h], fun k hk => ?_⟩
  have hk : k < cells.length := by rw [h]; exact hk
  simp [station, Memory.read_ofArray, List.getD_eq_getElem?_getD, hk]

/-- BitReadsPackCellsLsbFirst: both clauses, quantity 2000. -/
theorem witness_BitReads :
    let s := station (List.replicate 2000 true) (List.replicate 2000 true) [] []
    Present s .coils ∧ InRange s .coils 0 2000 ∧ Present s .di ∧ InRange s .di 0 2000 ∧
    ∀ k, k < (2000#16).toNat →
      Memory.read s.store.coils ((0#16).toNat + k) = some ((List.replicate 2000 true).getD k false) ∧
      Memory.read s.store.di ((0#16).toNat + k) = some ((List.replicate 2000 true).getD k false) :=
  bit_read_premises _ List.length_replicate

/-- WordReadsEmitBigEndianWords: both clauses, quantity 125. -/
theorem witness_WordReads :
    let s := station [] [] (List.replicate 125 7) (List.replicate 125 7)
    Present s .hr ∧ InRange s .hr 0 125 ∧ Present s .ir ∧ InRange s .ir 0 125 ∧
    ∀ k, k < 125 → Memory.read s.store.hr ((0#16).toNat + k) = some 7 ∧ Memory.read s.store.ir ((0#16).toNat + k) = some 7 :=
  ⟨⟨rfl, by decide +kernel⟩, by unfold InRange; decide +kernel, ⟨rfl, by decide +kernel⟩, by unfold InRange; decide +kernel, by decide +kernel⟩

/-- WriteSingleCoilWritesOneCoil and WriteSingleRegisterWritesOneRegister: the last cell, both coil values. -/
theorem witness_WriteSingle :
    (Present writing .coils ∧ ((0xFF00#16 : Word) = 0x0000#16 ∨ (0xFF00#16 : Word) = 0xFF00#16) ∧
      (15#16).toNat < writing.conf.coils.len.toNat ∧ (Memory.read writing.store.coils (15#16).toNat).isSome = true) ∧
    (Present writing .hr ∧ (9#16).toNat < writing.conf.hr.len.toNat ∧ (Memory.read writing.store.hr (9#16).toNat).isSome = true) :=
  ⟨⟨present_writing.2, by decide, by decide, by decide⟩, present_writing.1, by decide, by decide⟩

/-- WriteMultipleCoilsUnpacksBits and WriteMultipleRegistersUnpacksWords: the whole regions (X16, X21). -/
theorem witness_WriteMultiple :
    (InRange writing .coils 0 16 ∧ [0xFF, 0xFF].length = ((16#16).toNat + 7) / 8 ∧
      ∀ k, k < 16 → (Memory.read writing.store.coils ((0#16).toNat + k)).isSome = true) ∧
    (InRange writing .hr 0 10 ∧ (List.replicate 20 (0 : Byte)).length = 2 * (10#16).toNat ∧
      ∀ k, k < 10 → (Memory.read writing.store.hr ((0#16).toNat + k)).isSome = true) :=
  ⟨⟨by unfold InRange; decide, by decide, by decide⟩, by unfold InRange; decide, by decide, by decide⟩

/-- RequestStopsOnlyOnUnprovidedCell: a request that stops, since the host bound 2 cells to a region of length 3 (U4). -/
theorem witness_RequestStops :
    (Instr.rhr 1 (.fit 1 2)).wf = true ∧
    exec (.rhr 1 (.fit 1 2)) { writing with
      conf := { writing.conf with hr := ⟨true, 3⟩ }
      store := { writing.store with hr := [(0, 7), (1, 8)] } } = .fault .cellAbsent := ⟨by decide, rfl⟩

/-- DispatchReportsAndNeverMutatesPartially, ResponseBodyFitsTheBuffer, BroadcastExecutesLikeUnicast,
RepeatedReadsGiveIdenticalResponses: dispatches that end in a next state. -/
theorem witness_dispatches :
    (∃ t, exec (.wmr 1 (.fit 1 2 [0, 10, 1, 2])) writing = .next t) ∧
    ((1#8 : Byte) ≠ 0#8 ∧ ∃ t, exec ((Instr.wsc 1 (.fit 2 0xFF00)).withId 0#8) writing = .next t) ∧
    ((Instr.rhr 1 (.fit 0 1)).isRead = true ∧ (Instr.rhr 1 (.fit 0 1)).wf = true ∧ ∃ t, exec (.rhr 1 (.fit 0 1)) reading = .next t ∧
      reading.store = t.store ∧ reading.conf = t.conf) :=
  ⟨⟨_, rfl⟩, ⟨by decide, _, rfl⟩, rfl, by decide, _, rfl, rfl, rfl⟩

/-- The hypotheses of the longest emission. -/
theorem emit_premises (body : List Byte) (h : body.length = 254) :
    (emitting body writing).phase = .emit ∧ EngineTurn (emitting body writing) [] ∧
    body.length = (emitting body writing).respLen.toNat ∧ body.length + 2 ≤ 256 ∧
    ∀ k, k < body.length → Memory.read (emitting body writing).buf k = body[k]? :=
  ⟨rfl, turn_of_empty rfl, by simp [emitting, h], by omega, fun k _ => Memory.read_ofArray body k⟩

/-- EmitSignsAndHandsOverTheResponse: the longest body the buffer admits with its CRC. -/
theorem witness_Emit :
    let body : List Byte := List.replicate 254 0x5A
    (emitting body writing).phase = .emit ∧ EngineTurn (emitting body writing) [] ∧
    body.length = (emitting body writing).respLen.toNat ∧ body.length + 2 ≤ 256 ∧
    ∀ k, k < body.length → Memory.read (emitting body writing).buf k = body[k]? :=
  emit_premises _ List.length_replicate

/-- FlushWaitsThenLowersTxEn: with the line busy, and with the line done. -/
theorem witness_Flush :
    (let s : State := { writing with phase := .flush, txBusy := true, txEn := true }
     s.phase = .flush ∧ EngineTurn s [] ∧ s.txBusy = true) ∧
    ({ writing with phase := .flush, txEn := true } : State).txBusy = false :=
  ⟨⟨rfl, turn_of_empty rfl, rfl⟩, rfl⟩

/-- `writing` in the middle of a transmission, with a script. -/
def flushing (script : List Action) : State := { writing with phase := .flush, txBusy := true, txEn := true, script := script }

/-- A transmission meets the invariant, whatever is to happen. -/
theorem flushing_inv (script : List Action) : Inv (flushing script) :=
  ⟨⟨(by decide : writing.memWf).1, (by decide : writing.memWf).2⟩, by simp [flushing, writing, station, State.reset],
    (by decide : (0#9).toNat ≤ 256), fun _ => (by decide : 1 ≤ (1#8).toNat ∧ (1#8).toNat ≤ 247),
    fun _ => (by decide : (2604#32).toNat < (4687#32).toNat), (by decide : (0#3).toNat ≤ 3 ∧ (0#3).toNat ≤ 3),
    by intro sp h; cases sp <;> exact absurd h Bool.noConfusion, ⟨fun _ => rfl, fun _ => rfl⟩,
    by simp [flushing, Phase.holdsFrame], by simp [flushing], by simp [flushing], Nat.le_refl _, by simp [flushing, Phase.readsTimer]⟩

/-- UnfinishedTransmissionHangsInFlush: a script whose next action is another, one without the two actions, and the empty one. -/
theorem witness_Unfinished :
    (let s := flushing [.receive 0x55, .txDone]
     Inv s ∧ s.phase = .flush ∧ s.txBusy = true ∧ (∀ rest, s.script ≠ .txDone :: rest) ∧ ∀ rest, s.script ≠ .reset :: rest) ∧
    (Inv (flushing [.wait 7, .host (.init 1 9600 .none false)]) ∧
      ∀ a ∈ (flushing [.wait 7, .host (.init 1 9600 .none false)]).script, a ≠ .txDone ∧ a ≠ .reset) ∧
    Inv (flushing []) ∧ (flushing []).script = [] ∧ (flushing []).par.timeW = none :=
  ⟨⟨flushing_inv _, rfl, rfl, by simp [flushing], by simp [flushing]⟩, ⟨flushing_inv _, by decide⟩, flushing_inv _, rfl, rfl⟩

/-- TransmissionEndClearsTxBusyAlone, HostCellReadChangesNothing, TransmitEnableLineIsDrivenOnlyIfPresent: the two scripts, and a
state that meets the invariant with the line driven high. -/
theorem witness_line_actions :
    (flushing [.txDone, .engine]).script = .txDone :: [.engine] ∧
    (flushing [.host (.readCell .hr 3)]).script = .host (.readCell .hr 3) :: [] ∧
    Inv (flushing []) ∧ txEnLine (withTxEnLine true (flushing [])) = some true := ⟨rfl, rfl, flushing_inv _, rfl⟩

/-- OnlyEmitTransmits, OnlyDrainAndRecvRemoveBytes, PhaseChangesFollowTheGraph, OutcomeOccursOncePerExchange,
EngineWritesOnlyCoilsAndHoldingRegistersInDispatch, WireCannotChangeConfiguration: steps from the phases their clauses name. -/
theorem witness_steps :
    (∃ t, step (emitting [0x01, 0x83, 0x02] writing) = .next t) ∧
    (∃ t, step { writing with phase := .drain, rxq := [0x77] } = .next t) ∧
    (∃ t, step (holding .validate [0x01, 0x03, 0x40] writing) = .next t ∧ t.phase = .idle ∧ t.res.valid = true) ∧
    (∃ t, step { writing with script := [.reset] } = .next t ∧ t.res.valid = false) ∧
    (∃ t, step (holding .dispatch [0x01, 0x07, 0x41, 0xE2] writing) = .next t ∧ t.phase ≠ .dispatch ∧ t.phase ≠ .unconf) ∧
    ((∀ op rest, writing.script ≠ .host op :: rest) ∧ (∀ rest, writing.script ≠ .reset :: rest) ∧
      ∃ t, step writing = .next t ∧ t.res.valid = false) :=
  ⟨⟨_, rfl⟩, ⟨_, rfl⟩, ⟨_, rfl, rfl, rfl⟩, ⟨_, rfl, rfl⟩, ⟨_, rfl, by decide, by decide⟩, by simp [writing, station, State.reset],
    by simp [writing, station, State.reset], _, rfl, rfl⟩

/-- ClockWaitsForEnabledSteps: an enabled step with `STEP_LATENCY = 0`, and one that has waited for 3 in a 16-bit counter. -/
theorem witness_Clock :
    (let s : State := { writing with rxq := [0x01], script := [.wait 5] }
     s.par.timeW = none ∧ enabledRule s ≠ none ∧ s.par.stepLatency ≤ s.waited ∧ ∃ t, step s = .next t) ∧
    (let s : State := { writing with rxq := [0x01], script := [.wait 5], par := { stepLatency := 3, timeW := some 16 }, waited := 3 }
     enabledRule s ≠ none ∧ s.par.stepLatency ≤ s.waited ∧ ∃ t, step s = .next t) :=
  ⟨⟨rfl, by decide, by decide, _, rfl⟩, by decide, by decide, _, rfl⟩

/-- QuietDrainEndsExactlyAtFrameTimeout: the step to IDLE, and the last microsecond before it. -/
theorem witness_QuietDrain :
    (∃ t, step { writing with phase := .drain, now := 4687, script := [.wait 9] } = .next t ∧ t.phase = .idle) ∧
    (let s : State := { writing with phase := .drain, now := 4686, script := [.wait 9] }
     s.par.timeW = none ∧ s.par.stepLatency = 0 ∧ s.now ≤ s.tMark + s.conf.frameTimeout.toNat ∧
      ∃ t, step s = .next t ∧ t.phase = .drain) := ⟨⟨_, rfl, rfl⟩, rfl, rfl, by decide, _, rfl, rfl⟩

/-- WrappingTimerMeasuresShortIntervals: the longest interval of a 16-bit counter. -/
theorem witness_Wrapping : 65535 < 2 ^ 16 := by decide

/-- QuietLineEndsDrainAfterFrameTimeout: at the start of the window and at its end. -/
theorem witness_QuietLine :
    (let s : State := { writing with phase := .drain, tMark := 10, now := 10 }
     s.rxq = [] ∧ s.script = [] ∧ s.par.timeW = none ∧ s.tMark ≤ s.now ∧ s.now ≤ s.tMark + s.conf.frameTimeout.toNat) ∧
    (let s : State := { writing with phase := .drain, tMark := 10, now := 4697 }
     s.now ≤ s.tMark + s.conf.frameTimeout.toNat) := by decide

/-- WaitingBurstIsReceivedInOrder: 256 bytes. -/
theorem witness_Burst :
    let s : State := { writing with phase := .recv, rxq := List.replicate 256 0x11 }
    s.len = 0#9 ∧ s.rxq = List.replicate 256 0x11 ∧ (List.replicate 256 (0x11 : Byte)).length ≤ 256 ∧ s.script = [] ∧
      s.par.timeW = none ∧ elapsed s ≤ s.conf.charTimeout.toNat := ⟨rfl, rfl, by decide +kernel, rfl, rfl, by decide⟩

/-- UnspecifiedValuesAreNeverObserved: two different states that agree on everything a rule can read. -/
theorem witness_SameLive :
    SameLive State.reset { State.reset with tMark := 5, quietOk := true, respLen := 9, req := ⟨1, 2, 3, 4⟩ } ∧
    State.reset ≠ { State.reset with tMark := 5, quietOk := true, respLen := 9, req := ⟨1, 2, 3, 4⟩ } := by
  refine ⟨?_, by decide⟩
  constructor <;> simp [State.reset, Phase.holdsFrame]

end Sys2Proof.Tests
end

section
/-! The CRC engine as the reference algorithm of R83 and R84. -/

namespace Sys2Proof.Machine

/-- R83: before the first byte the running value is the initial value. -/
@[simp] theorem crc16_nil : crc16 [] = 0xFFFF#16 := rfl

/-- R83: the running value after one more byte depends on the earlier bytes through their CRC alone. -/
theorem crc16_concat (s : List Byte) (b : Byte) : crc16 (s ++ [b]) = crcByte (crc16 s) b :=
  List.foldl_concat ..

/-- R83: the model's eight nested `bitStep`s are the eighth iterate. -/
theorem crcByte_eq_iterate (c : Word) (b : Byte) : crcByte c b = bitStep^[8] (c ^^^ b.setWidth 16) := rfl

/-- Settles O6: R84 is the definition of `bitStep`, and R83's recursion over the bytes is that of the left fold. -/
theorem crcFollowsReferenceAlgorithm : Obligations.CrcFollowsReferenceAlgorithm := by
  unfold Obligations.CrcFollowsReferenceAlgorithm
  refine ⟨fun c => ?bitStep, crc16_nil, fun s b => ?byte⟩
  case bitStep => rw [bitStep]
  case byte =>
    calc crc16 (s ++ [b])
      _ = crcByte (crc16 s) b := crc16_concat s b
      _ = bitStep^[8] (crc16 s ^^^ b.setWidth 16) := crcByte_eq_iterate (crc16 s) b

end Sys2Proof.Machine
end

section
/-! Frame acquisition: the rules of `RECV` and `VALIDATE` on the engine's turn. -/

namespace Sys2Proof.Machine

/-! ### RECV -/

/-- R95, R96, R97, R98: the rule of `RECV`, by capacity, then timer, then byte. -/
theorem enabledRule_recv {s : State} (hp : s.phase = .recv) (hlen : s.len.toNat ≤ 256) :
    enabledRule s =
      if s.len.toNat = 256 then some .recvFull
      else if s.conf.charTimeout.toNat < elapsed s then some .recvExpire
      else if s.rxq = [] then none
      else some .recvByte := by
  have hcap : ¬ bufCap < s.len.toNat := Nat.not_lt.2 hlen
  cases hq : s.rxq <;> simp [enabledRule, hp, hcap, bytesAvailable, hq]

/-- R97: the byte at the head of the queue goes to `buf[len]`. -/
theorem recvByte_of_cons {s : State} {b : Byte} {q : List Byte} (hq : s.rxq = b :: q) :
    recvByte s =
      { s with buf := Memory.write s.buf s.len.toNat b, rxq := q, len := s.len + 1#9, tMark := s.now } := by
  simp only [recvByte, hq]
  rfl

/-- R97: below the capacity the 9-bit fill index counts without wrapping. -/
theorem toNat_succ_of_lt_capacity {n : BitVec 9} (h : n.toNat < 256) : (n + 1#9).toNat = n.toNat + 1 :=
  BitVec.toNat_add_of_lt (by simp; omega)

/-- Settles O19, by which rule `enabledRule_recv` selects in each of the four cases. -/
theorem recvTestsCapacityThenTimerThenByte : Obligations.RecvTestsCapacityThenTimerThenByte := by
  unfold Obligations.RecvTestsCapacityThenTimerThenByte
  intro s rest hp ht
  refine ⟨fun hfull => ?full, fun hlt htime => ?expire, fun hlt htime b q hq => ?byte, fun hlt htime hq => ?wait⟩
  case full =>
    have hr : enabledRule s = some .recvFull := by simp [enabledRule_recv hp hfull.le, hfull]
    rw [step_of_turn ht hr]
    rfl
  case expire =>
    have hr : enabledRule s = some .recvExpire := by simp [enabledRule_recv hp hlt.le, hlt.ne, htime]
    rw [step_of_turn ht hr]
    rfl
  case byte =>
    have hr : enabledRule s = some .recvByte := by simp [enabledRule_recv hp hlt.le, hlt.ne, htime.not_gt, hq]
    refine ⟨Memory.write s.buf s.len.toNat b, ?_, toNat_succ_of_lt_capacity hlt, Memory.read_write_same _ _ _,
      fun a ha => Memory.read_write_other _ _ ha.symm⟩
    rw [step_of_turn ht hr, fire, recvByte_of_cons (s := begun s rest) hq]
    rfl
  case wait => simp [enabledRule_recv hp hlt.le, hlt.ne, htime.not_gt, hq]

/-! ### VALIDATE -/

/-- R100: `VALIDATE` never waits. -/
theorem enabledRule_validate {s : State} (hp : s.phase = .validate) : enabledRule s = some .validate := by
  simp only [enabledRule, hp]

/-- The address match of R102. -/
theorem addressMatches_iff (s : State) (addr : Byte) :
    addressMatches s addr = true ↔ addr = 0#8 ∨ (s.conf.idAssigned = true ∧ addr = s.conf.stationId) := by
  simp [addressMatches]

/-- The CRC match of R103. -/
theorem crcMatches_iff (frame : List Byte) :
    crcMatches frame = true ↔
      word (frame.getD (frame.length - 1) 0) (frame.getD (frame.length - 2) 0) = crc16 (frame.take (frame.length - 2)) :=
  beq_iff_eq

/-- The conditions of R100 that read the frame. -/
theorem frameMatches_iff (s : State) (frame : List Byte) :
    frameMatches s frame = true ↔
      (frame.getD 0 0 = 0#8 ∨ (s.conf.idAssigned = true ∧ frame.getD 0 0 = s.conf.stationId)) ∧
      word (frame.getD (frame.length - 1) 0) (frame.getD (frame.length - 2) 0) = crc16 (frame.take (frame.length - 2)) := by
  rw [frameMatches, Bool.and_eq_true, addressMatches_iff, crcMatches_iff]

/-- R100, R105: a quiet, long enough, matching frame is accepted. -/
theorem validateStep_accept {s : State} {frame : List Byte} (hread : readBuf s s.len.toNat = .ok frame)
    (hquiet : s.quietOk = true) (hlen : 4 ≤ s.len.toNat) (hmatch : frameMatches s frame = true) :
    validateStep s = .next (acceptFrame s) := by
  simp [validateStep, hread, hquiet, hlen, hmatch]

/-- R100, R104: with the frame readable, the failure of any one condition rejects. -/
theorem validateStep_reject {s : State} {frame : List Byte} (hread : readBuf s s.len.toNat = .ok frame)
    (hfail : ¬ (s.quietOk = true ∧ 4 ≤ s.len.toNat ∧ frameMatches s frame = true)) :
    validateStep s = .next (rejectFrame s) := by
  by_cases hgate : s.quietOk = true ∧ 4 ≤ s.len.toNat
  · obtain ⟨hquiet, hlen⟩ := hgate
    have hmatch : ¬ frameMatches s frame = true := fun h => hfail ⟨hquiet, hlen, h⟩
    simp [validateStep, hread, hquiet, hlen, hmatch]
  · have hclosed : ¬ (s.quietOk && decide (4 ≤ s.len.toNat)) = true := by simpa using hgate
    rw [validateStep, if_neg hclosed]

/-- Settles O21: the buffer reads as `frame`, so `VALIDATE` decides by R100's conditions on it. -/
theorem validateAcceptsExactlyMatchingFrames : Obligations.ValidateAcceptsExactlyMatchingFrames := by
  unfold Obligations.ValidateAcceptsExactlyMatchingFrames
  intro s rest frame hp ht hlen hcap hbuf
  have hread : readBuf (begun s rest) (begun s rest).len.toNat = .ok frame :=
    (readBuf_ok_iff _ _ _).2 ⟨hlen ▸ hcap, hlen, fun k hk => hbuf k (hlen ▸ hk)⟩
  intro accepted
  have haccepted : accepted ↔ (begun s rest).quietOk = true ∧ 4 ≤ (begun s rest).len.toNat ∧
      frameMatches (begun s rest) frame = true := by
    rw [frameMatches_iff, begun_len, ← hlen]
    rfl
  rw [step_of_turn ht (enabledRule_validate hp), fire, haccepted]
  refine ⟨fun ⟨hquiet, hfour, hmatch⟩ => ?accept, fun hfail => ?reject⟩
  case accept =>
    rw [validateStep_accept hread hquiet hfour hmatch]
    rfl
  case reject =>
    rw [validateStep_reject hread hfail]
    rfl

end Sys2Proof.Machine
end

section
/-! The dispatcher: what a raised exception leaves, and the first check of the validation order. -/

namespace Sys2Proof.Machine

/-! ### Raised exceptions -/

/-- R111, R112, R120, R121, R124: a raised exception is latched, reported and leaves as any request does. -/
theorem reports_raised (i : Instr) (c : ExcCode) (s : State) : Reports i c.code (raised i c s) :=
  ⟨rfl, rfl, rfl, rfl⟩

/-- R178: of the buffer, a raised exception writes the two bytes from index 1. -/
theorem raised_buf (i : Instr) (c : ExcCode) (s : State) :
    (raised i c s).buf = Memory.writeN s.buf 1 [i.fc ||| 0x80#8, c.code.setWidth 8] := rfl

/-- R110: what a dispatch does not write, a raised exception leaves. -/
theorem dispatchFrame_raised (i : Instr) (c : ExcCode) (s : State) : DispatchFrame s (raised i c s) := by
  simp [DispatchFrame, raised]

/-- R178: every raised exception, whatever its cause, has the whole effect of its code. -/
theorem raisedException_raised (i : Instr) (c : ExcCode) (s : State) : RaisedException i c.code s (raised i c s) := by
  refine ⟨reports_raised i c s, rfl, ?fcByte, ?codeByte, fun a h1 h2 => ?otherByte, rfl, dispatchFrame_raised i c s⟩
  case fcByte => rw [raised_buf, Memory.read_writeN_in _ (by decide) (by simp)]; rfl
  case codeByte => rw [raised_buf, Memory.read_writeN_in _ (by decide) (by simp)]; rfl
  case otherByte =>
    have hout : a < 1 ∨ 3 ≤ a := by omega
    rw [raised_buf, Memory.read_writeN_out _ hout]

/-- R115: a request that fails a check raises the exception of the first one it fails. -/
theorem exec_of_firstFailure {i : Instr} {sp : Space} {s : State} {c : ExcCode} (hsp : i.space? = some sp)
    (hc : firstFailure (regionPresent s sp) (requestShape i) (rangeOk i.start i.qty (regionLen s sp)) = some c) :
    exec i s = .next (raised i c s) := by
  simp only [exec_eq i sp s hsp, hc]

/-! ### The region check -/

/-- The two causes of R116: a region is absent exactly when it is not configured or has length 0. -/
theorem regionPresent_eq_false_iff (s : State) (sp : Space) :
    regionPresent s sp = false ↔ (descriptor s sp).cfg = false ∨ (descriptor s sp).len = 0#16 := by
  rw [← Bool.not_eq_true, regionPresent_iff, Present, not_and_or, Bool.not_eq_true, not_ne_iff]

/-- R115, R116: with the region absent, neither shape nor range is looked at. -/
theorem firstFailure_absent (shape range : Bool) : firstFailure false shape range = some .illegalFunction := rfl

/-- Settles O24: the region check fails first, and the exception it raises has R178's effect. -/
theorem absentRegionRaisesOne : Obligations.AbsentRegionRaisesOne := by
  unfold Obligations.AbsentRegionRaisesOne
  intro i sp s hsp habsent
  have hregion : regionPresent s sp = false := (regionPresent_eq_false_iff s sp).2 habsent
  have hexec : exec i s = .next (raised i .illegalFunction s) :=
    exec_of_firstFailure hsp (hregion ▸ firstFailure_absent _ _)
  exact ⟨_, hexec, raisedException_raised i .illegalFunction s⟩

end Sys2Proof.Machine
end

section
/-! The read functions: a read changes no cell, and what it answers depends on the request, the descriptors and the cells alone. -/

namespace Sys2Proof.Machine

/-! ### The answer to a read -/

/-- The data bytes of a read, if the host provided every cell it asks for (R125, R128). -/
def readData (i : Instr) (store : Store) : Option (List Byte) :=
  match i with
  | .rc _ b => (Memory.readN store.coils b.start.toNat b.field2.toNat).map packBits
  | .rdi _ b => (Memory.readN store.di b.start.toNat b.field2.toNat).map packBits
  | .rhr _ b => (Memory.readN store.hr b.start.toNat b.field2.toNat).map packWords
  | .rir _ b => (Memory.readN store.ir b.start.toNat b.field2.toNat).map packWords
  | _ => none

/-- R125, R128: the access of a read builds the response from the data of its cells. -/
theorem requestAccess_of_isRead {i : Instr} (hread : i.isRead = true) (s u : State) :
    requestAccess i s u = (readData i s.store).map fun data => readResponse data u := by
  cases i with
  | rc id b | rdi id b => simp only [requestAccess, readBits, readData, Option.map_map, Function.comp_def]
  | rhr id b | rir id b => simp only [requestAccess, readWords, readData, Option.map_map, Function.comp_def]
  | wsc id b | wsr id b | wmc id b | wmr id b | illegal id fc p => cases hread

/-- R53: every read has a region. -/
theorem exists_space_of_isRead {i : Instr} (hread : i.isRead = true) : ∃ sp, i.space? = some sp := by
  cases i with
  | illegal id fc p => cases hread
  | _ => exact ⟨_, rfl⟩

/-- What a read is answered: the exception of the first check it fails, else its data; nothing where a cell is absent
(R115, R125, R128, U4). -/
def readAnswer (i : Instr) (s : State) : Option (Except ExcCode (List Byte)) :=
  i.space?.bind fun sp =>
    match firstFailure (regionPresent s sp) (requestShape i) (rangeOk i.start i.qty (regionLen s sp)) with
    | some c => some (.error c)
    | none => (readData i s.store).map .ok

/-- The state an answer leaves. -/
def answered (i : Instr) (answer : Except ExcCode (List Byte)) (s : State) : State :=
  match answer with
  | .error c => raised i c s
  | .ok data => concludeDispatch (readResponse data (startAccess i s))

/-- A read ends in a next state exactly when it has an answer, and that answer decides the state. -/
theorem exec_read_next_iff {i : Instr} (hread : i.isRead = true) (s t : State) :
    exec i s = .next t ↔ ∃ answer, readAnswer i s = some answer ∧ answered i answer s = t := by
  obtain ⟨sp, hsp⟩ := exists_space_of_isRead hread
  rw [exec_eq i sp s hsp, requestAccess_of_isRead hread, readAnswer, hsp, Option.bind_some]
  cases firstFailure (regionPresent s sp) (requestShape i) (rangeOk i.start i.qty (regionLen s sp)) with
  | some c => simp [answered]
  | none => cases readData i s.store <;> simp [answered]

/-- R133: the answer to a read depends on nothing of the state but its cells and descriptors. -/
theorem readAnswer_congr {s s' : State} (hstore : s'.store = s.store) (hconf : s'.conf = s.conf) (i : Instr) :
    readAnswer i s' = readAnswer i s := by
  have hdesc (sp : Space) : descriptor s' sp = descriptor s sp := by cases sp <;> simp only [descriptor, hconf]
  simp only [readAnswer, regionPresent, regionLen, hdesc, hstore]

/-! ### The state an answer leaves -/

section
variable (i : Instr) (answer : Except ExcCode (List Byte)) (s : State)

/-- R133: a read changes no region cell. -/
@[simp] theorem answered_store : (answered i answer s).store = s.store := by cases answer <;> rfl

/-- R133: a read changes no configuration register. -/
@[simp] theorem answered_conf : (answered i answer s).conf = s.conf := by cases answer <;> rfl

theorem answered_respLen_eq (s' : State) : (answered i answer s').respLen = (answered i answer s).respLen := by
  cases answer <;> rfl

theorem answered_exc_eq (s' : State) : (answered i answer s').exc = (answered i answer s).exc := by cases answer <;> rfl

end

/-- After one group write, memories that agreed below it agree up to its end. -/
theorem Memory.read_writeN_congr {α : Type} {m m' : Memory α} {a b : Nat} {vs : List α}
    (h : ∀ k, k < a → Memory.read m' k = Memory.read m k) (hb : b < a + vs.length) :
    Memory.read (Memory.writeN m' a vs) b = Memory.read (Memory.writeN m a vs) b := by
  rcases Nat.lt_or_ge b a with hlt | hge
  · rw [Memory.read_writeN_out _ (.inl hlt), Memory.read_writeN_out _ (.inl hlt), h b hlt]
  · rw [Memory.read_writeN_in _ hge hb, Memory.read_writeN_in _ hge hb]

/-- R58, R178: an exception writes its response from index 1 and a read from index 2, each to its end; so the answer and the two
header bytes decide every byte of the response. -/
theorem answered_buf_congr {i : Instr} {answer : Except ExcCode (List Byte)} {s s' : State}
    (hheader : ∀ k, k < 2 → Memory.read s'.buf k = Memory.read s.buf k) {k : Nat}
    (hk : k < (answered i answer s).respLen.toNat) :
    Memory.read (answered i answer s').buf k = Memory.read (answered i answer s).buf k := by
  cases answer with
  | error c =>
    have hk : k < 3 := hk
    exact Memory.read_writeN_congr (fun j hj => hheader j (by omega)) hk
  | ok data =>
    have hlen : (BitVec.ofNat 9 (3 + data.length)).toNat ≤ 3 + data.length := Nat.mod_le _ _
    have hk : k < (BitVec.ofNat 9 (3 + data.length)).toNat := hk
    exact Memory.read_writeN_congr hheader (by simp only [List.length_cons]; omega)

/-- Settles O36: the two runs have the same answer, and an answer with the header bytes decides the response. -/
theorem repeatedReadsGiveIdenticalResponses : Obligations.RepeatedReadsGiveIdenticalResponses := by
  unfold Obligations.RepeatedReadsGiveIdenticalResponses
  intro i s t s' hread _ hexec hstore hconf h0 h1
  obtain ⟨answer, hanswer, rfl⟩ := (exec_read_next_iff hread s t).1 hexec
  rw [answered_store] at hstore
  rw [answered_conf] at hconf
  have hanswer' : readAnswer i s' = some answer := (readAnswer_congr hstore hconf i).trans hanswer
  have hheader : ∀ k, k < 2 → Memory.read s'.buf k = Memory.read s.buf k
    | 0, _ => h0
    | 1, _ => h1
  exact ⟨answered_store .., answered_conf .., answered i answer s', (exec_read_next_iff hread s' _).2 ⟨answer, hanswer', rfl⟩,
    answered_respLen_eq .., answered_exc_eq .., fun k hk => answered_buf_congr hheader hk⟩

end Sys2Proof.Machine
end

section
/-! Response emission: the one step of `EMIT` and the one step out of `FLUSH`. -/

namespace Sys2Proof.Machine

/-! ### EMIT -/

/-- R147: `EMIT` has no wait and no guard. -/
theorem enabledRule_emit {s : State} (hp : s.phase = .emit) : enabledRule s = some .emit := by
  simp only [enabledRule, hp]

/-- R150: a signed response is never empty, so handing it over always sets `tx_busy`. -/
theorem transmit_sign (body : List Byte) (s : State) :
    transmit (sign body) s = { s with tx := s.tx ++ sign body, txBusy := true } := by
  have hbusy : (s.txBusy || !(sign body).isEmpty) = true := by simp [sign, crcField]
  rw [transmit, hbusy]

/-- R147 to R150: a readable body with room for its CRC is signed and handed over. -/
theorem emitStep_of_readBuf {s : State} {body : List Byte} (hcap : s.respLen.toNat + 2 ≤ 256)
    (hread : readBuf s s.respLen.toNat = .ok body) :
    emitStep s = .next { s with
      buf := Memory.writeN s.buf s.respLen.toNat (crcField body), tx := s.tx ++ sign body, txBusy := true, txEn := true,
      phase := .flush } := by
  have hroom : ¬ bufCap < s.respLen.toNat + 2 := Nat.not_lt.2 hcap
  simp only [emitStep, if_neg hroom, hread, transmit_sign]
  rfl

section
variable (m : Memory Byte) (n : Nat) (body : List Byte)

/-- R148: the low byte of the CRC comes first. -/
theorem Memory.read_writeN_crcField_lo : Memory.read (Memory.writeN m n (crcField body)) n = some (lo (crc16 body)) := by
  rw [Memory.read_writeN_in m le_rfl (by simp [crcField]), Nat.sub_self]
  rfl

/-- R148: the high byte of the CRC follows. -/
theorem Memory.read_writeN_crcField_hi :
    Memory.read (Memory.writeN m n (crcField body)) (n + 1) = some (hi (crc16 body)) := by
  rw [Memory.read_writeN_in m (Nat.le_add_right n 1) (by simp [crcField]), Nat.add_sub_cancel_left]
  rfl

/-- R148: the append writes the two bytes of the CRC field and no other. -/
theorem Memory.read_writeN_crcField_other {a : Nat} (hlo : a ≠ n) (hhi : a ≠ n + 1) :
    Memory.read (Memory.writeN m n (crcField body)) a = Memory.read m a := by
  have hout : a < n ∨ n + (crcField body).length ≤ a := by
    simp only [crcField, List.length_cons, List.length_nil]
    omega
  exact Memory.read_writeN_out m hout

end

/-- Settles O38: the buffer reads as `body`, so `EMIT` fires on it, and the new buffer is the old one with the CRC field at the
body's end. -/
theorem emitSignsAndHandsOverTheResponse : Obligations.EmitSignsAndHandsOverTheResponse := by
  unfold Obligations.EmitSignsAndHandsOverTheResponse
  intro s rest body hp ht hlen hcap hbuf
  have hread : readBuf (begun s rest) (begun s rest).respLen.toNat = .ok body :=
    (readBuf_ok_iff _ _ _).2 ⟨by rw [begun_respLen]; omega, hlen, fun k hk => hbuf k (hlen ▸ hk)⟩
  have hroom : (begun s rest).respLen.toNat + 2 ≤ 256 := by rwa [begun_respLen, ← hlen]
  refine ⟨Memory.writeN s.buf body.length (crcField body), ?step, Memory.read_writeN_crcField_lo ..,
    Memory.read_writeN_crcField_hi .., fun a => Memory.read_writeN_crcField_other s.buf body.length body⟩
  case step =>
    rw [step_of_turn ht (enabledRule_emit hp), fire, emitStep_of_readBuf hroom hread, hlen]
    rfl

/-! ### FLUSH -/

/-- R151: the guard of `FLUSH` is `tx_busy = 0`, and it has no other rule. -/
theorem enabledRule_flush {s : State} (hp : s.phase = .flush) :
    enabledRule s = if s.txBusy then none else some .flushDone := by
  simp only [enabledRule, hp]

/-- Settles O39, by the two values of `tx_busy`. -/
theorem flushWaitsThenLowersTxEn : Obligations.FlushWaitsThenLowersTxEn := by
  unfold Obligations.FlushWaitsThenLowersTxEn
  intro s rest hp ht
  refine ⟨fun hbusy => ?wait, fun hclear => ?leave⟩
  case wait => rw [enabledRule_flush hp, if_pos hbusy]
  case leave =>
    have hr : enabledRule s = some .flushDone := by simp [enabledRule_flush hp, hclear]
    rw [step_of_turn ht hr]
    rfl

end Sys2Proof.Machine
end

section
/-! The CRC engine, derived: the residue of a signed sequence, and the detection of a flipped bit. -/

namespace Sys2Proof.Machine

/-! ### The residue -/

/-- R84: with the low `n` bits clear, `n` steps only shift. -/
theorem bitStep_iterate_of_low_bits_clear (n : Nat) (c : Word) (h : ∀ k, k < n → c.getLsbD k = false) :
    bitStep^[n] c = c >>> n := by
  induction n generalizing c with
  | zero => simp
  | succ n ih =>
    have hstep : bitStep c = c >>> 1 := by rw [bitStep, h 0 n.succ_pos, if_neg Bool.false_ne_true]
    have hclear (k : Nat) (hk : k < n) : (c >>> 1).getLsbD k = false := by
      rw [BitVec.getLsbD_ushiftRight]
      exact h (1 + k) (by omega)
    rw [Function.iterate_succ_apply, hstep, ih _ hclear, ← BitVec.shiftRight_add, Nat.add_comm]

/-- R83: a running value's own low byte shifts its high byte down. -/
theorem crcByte_lo (c : Word) : crcByte c (lo c) = (hi c).setWidth 16 := by
  have hclear (k : Nat) (hk : k < 8) : (c ^^^ (lo c).setWidth 16).getLsbD k = false := by
    simp [lo, hk, show k < 16 by omega]
  rw [crcByte_eq_iterate, bitStep_iterate_of_low_bits_clear 8 _ hclear]
  ext k hk
  have hbyte : c.getLsbD (8 + k) = true → k < 8 := fun h => by
    have := BitVec.lt_of_getLsbD h
    omega
  simpa [lo, hi] using hbyte

/-- R83: a byte equal to the running value clears it. -/
theorem crcByte_self (b : Byte) : crcByte (b.setWidth 16) b = 0#16 := by
  rw [crcByte_eq_iterate, BitVec.xor_self]
  exact bitStep_iterate_of_low_bits_clear 8 0#16 (by simp)

/-- R88: the residue of a signed sequence. -/
theorem crc16_append_crcField (s : List Byte) : crc16 (s ++ crcField s) = 0#16 := by
  have hsplit : s ++ crcField s = (s ++ [lo (crc16 s)]) ++ [hi (crc16 s)] := by simp [crcField]
  rw [hsplit, crc16_concat, crc16_concat, crcByte_lo, crcByte_self]

/-- Settles O7, by the residue of a signed sequence. -/
theorem crcOfSignedFrameIsZero : Obligations.CrcOfSignedFrameIsZero := crc16_append_crcField

/-! ### Single-bit errors -/

/-- R84: the bit shifted out reappears as the top bit. -/
theorem bitStep_getLsbD_top (c : Word) : (bitStep c).getLsbD 15 = c.getLsbD 0 := by
  rw [bitStep]
  cases c.getLsbD 0 with
  | true => simp
  | false => simp

/-- R84: `BitStep` loses nothing: its top bit tells whether it subtracted. -/
theorem bitStep_injective : Function.Injective bitStep := by
  intro c d h
  have hlow : c.getLsbD 0 = d.getLsbD 0 := by rw [← bitStep_getLsbD_top, h, bitStep_getLsbD_top]
  have hshift : c >>> 1 = d >>> 1 := by
    rw [bitStep, bitStep, hlow] at h
    split at h
    · exact (BitVec.xor_left_inj _).1 h
    · exact h
  refine BitVec.eq_of_getLsbD_eq fun k _ => ?_
  cases k with
  | zero => exact hlow
  | succ k => simpa [Nat.add_comm] using congrArg (·.getLsbD k) hshift

/-- R83: for a given byte, different running values stay different. -/
theorem crcByte_injective_left (b : Byte) : Function.Injective (crcByte · b) := by
  intro c d h
  exact (BitVec.xor_left_inj _).1 (bitStep_injective.iterate 8 h)

/-- R83: for a given running value, different bytes give different values. -/
theorem crcByte_injective_right (c : Word) : Function.Injective (crcByte c) := by
  intro a b h
  have hwide : a.setWidth 16 = b.setWidth 16 := (BitVec.xor_right_inj _).1 (bitStep_injective.iterate 8 h)
  simpa using congrArg (BitVec.setWidth 8) hwide

/-- R83: the bytes after a difference never cancel it. -/
theorem foldl_crcByte_injective (s : List Byte) : Function.Injective (s.foldl crcByte) := by
  induction s with
  | nil => exact Function.injective_id
  | cons b s ih => exact ih.comp (crcByte_injective_left b)

/-- Sequences that differ in one byte alone have different CRCs. -/
theorem crc16_set_eq_iff {s : List Byte} {k : Nat} (hk : k < s.length) (b : Byte) :
    crc16 (s.set k b) = crc16 s ↔ b = s.getD k 0 := by
  have hold : s = s.take k ++ s.getD k 0 :: s.drop (k + 1) := by
    simp [List.getD_eq_getElem?_getD, hk]
  have hnew : s.set k b = s.take k ++ b :: s.drop (k + 1) := by
    rw [List.set_eq_take_append_cons_drop, if_pos hk]
  rw [hnew]
  conv_lhs => rhs; rw [hold]
  simp only [crc16, List.foldl_append, List.foldl_cons]
  rw [(foldl_crcByte_injective _).eq_iff, (crcByte_injective_right _).eq_iff]

/-- R103: appended bytes match exactly when they are the CRC field. -/
theorem crcMatches_append_iff (s : List Byte) (c1 c2 : Byte) :
    crcMatches (s ++ [c1, c2]) = true ↔ [c1, c2] = crcField s := by
  have hpart : crcMatches (s ++ [c1, c2]) = (word c2 c1 == crc16 s) := by
    simp [crcMatches, List.getD_eq_getElem?_getD]
  rw [hpart, beq_iff_eq, crcField]
  constructor
  · intro h
    rw [← h, lo_word, hi_word]
  · intro h
    obtain ⟨rfl, rfl⟩ : c1 = lo (crc16 s) ∧ c2 = hi (crc16 s) := by simpa using h
    exact word_hi_lo _

/-- R88, R103: a frame whose CRC matches has residue 0. -/
theorem crc16_of_crcMatches {frame : List Byte} (hlen : 2 ≤ frame.length) (h : crcMatches frame = true) :
    crc16 frame = 0#16 := by
  obtain ⟨s, c1, c2, rfl⟩ : ∃ s c1 c2, frame = s ++ [c1, c2] := by
    obtain rfl | ⟨l, c2, rfl⟩ := frame.eq_nil_or_concat'
    · simp at hlen
    obtain rfl | ⟨s, c1, rfl⟩ := l.eq_nil_or_concat'
    · simp at hlen
    exact ⟨s, c1, c2, by simp⟩
  rw [(crcMatches_append_iff s c1 c2).1 h, crc16_append_crcField]

/-- Settles O8: both frames would have residue 0, yet they differ in one byte alone. -/
theorem crcRejectsEverySingleBitFlip : Obligations.CrcRejectsEverySingleBitFlip := by
  unfold Obligations.CrcRejectsEverySingleBitFlip
  intro frame k bit hlen hmatch hk hbit
  rw [← Bool.not_eq_true]
  intro hflipped
  have hresidue := crc16_of_crcMatches (by simpa using hlen) hflipped
  have hsame : frame.getD k 0 ^^^ (1#8 <<< bit) = frame.getD k 0 :=
    (crc16_set_eq_iff hk _).1 (hresidue.trans (crc16_of_crcMatches hlen hmatch).symm)
  have hzero : (1#8 <<< bit) = 0#8 := by simpa using hsame
  have hone : (1#8 <<< bit).getLsbD bit = true := by simp [hbit]
  rw [hzero] at hone
  simp at hone

end Sys2Proof.Machine
end

section
/-! Encoding: a request as address byte, function code and payload, and the decoder as the inverse of the encoder. -/

namespace Sys2Proof
open Machine (word sign crcField bufCap crcMatches_append_iff)

/-! ### Payloads -/

/-- R54, R57: a well-formed Q8 body is the form its own payload selects. -/
theorem decodeQ8_encodeQ8 {b : Q8} (hw : b.wf = true) : decodeQ8 (encodeQ8 b) = b := by
  cases b with
  | fit f1 f2 => simp [encodeQ8, decodeQ8]
  | misfit p =>
    match p, hw with
    | [], _ | [_], _ | [_, _], _ | [_, _, _], _ | _ :: _ :: _ :: _ :: _ :: _, _ => rfl
    | [_, _, _, _], hw => simp [Q8.wf] at hw

/-- R54: the decoder drops no byte of a Q8 payload. -/
theorem encodeQ8_decodeQ8 (p : List Byte) : encodeQ8 (decodeQ8 p) = p := by
  match p with
  | [] | [_] | [_, _] | [_, _, _] | _ :: _ :: _ :: _ :: _ :: _ => rfl
  | [a, b, c, d] => simp [encodeQ8, decodeQ8]

/-- R57: the body read from a payload that fits the buffer is well-formed. -/
theorem decodeQ8_wf {p : List Byte} (h : p.length ≤ 252) : (decodeQ8 p).wf = true := by
  match p with
  | [] | [_] | [_, _] | [_, _, _] | [_, _, _, _] => rfl
  | _ :: _ :: _ :: _ :: _ :: _ => simpa [decodeQ8, Q8.wf] using h

/-- R55, R57: a well-formed QM body is the form its own payload selects. -/
theorem decodeQM_encodeQM {b : QM} (hw : b.wf = true) : decodeQM (encodeQM b) = b := by
  cases b with
  | fit s q data =>
    have hlen : data.length + 5 ≤ maxPayload := of_decide_eq_true hw
    have hcount : data.length = (BitVec.ofNat 8 data.length).toNat := by
      rw [BitVec.toNat_ofNat, Nat.mod_eq_of_lt (by simp only [maxPayload] at hlen; omega)]
    simp only [encodeQM, decodeQM, if_pos hcount, Machine.word_hi_lo]
  | misfit p =>
    match p, hw with
    | [], _ | [_], _ | [_, _], _ | [_, _, _], _ | [_, _, _, _], _ => rfl
    | a :: b :: c :: d :: bc :: data, hw =>
      have hcount : data.length ≠ bc.toNat := by
        simp only [QM.wf, Bool.and_eq_true, Bool.or_eq_true, decide_eq_true_eq, bne_iff_ne, List.length_cons,
          List.getD_cons_succ, List.getD_cons_zero] at hw
        omega
      simp only [encodeQM, decodeQM, if_neg hcount]

/-- R55: the decoder drops no byte of a QM payload. -/
theorem encodeQM_decodeQM (p : List Byte) : encodeQM (decodeQM p) = p := by
  match p with
  | [] | [_] | [_, _] | [_, _, _] | [_, _, _, _] => rfl
  | a :: b :: c :: d :: bc :: data =>
    by_cases hcount : data.length = bc.toNat
    · simp [decodeQM, encodeQM, hcount]
    · simp [decodeQM, encodeQM, hcount]

/-- R57: the body read from a payload that fits the buffer is well-formed. -/
theorem decodeQM_wf {p : List Byte} (h : p.length ≤ 252) : (decodeQM p).wf = true := by
  match p with
  | [] | [_] | [_, _] | [_, _, _] | [_, _, _, _] => rfl
  | a :: b :: c :: d :: bc :: data =>
    simp only [List.length_cons] at h
    by_cases hcount : data.length = bc.toNat
    · simp only [decodeQM, if_pos hcount, QM.wf, decide_eq_true_eq]
      omega
    · simp only [decodeQM, if_neg hcount, QM.wf, maxPayload, Bool.and_eq_true, Bool.or_eq_true, decide_eq_true_eq, bne_iff_ne,
        List.length_cons, List.getD_cons_succ, List.getD_cons_zero]
      omega

/-! ### Requests -/

/-- The payload of a request, between function code and CRC (R50). -/
def Instr.payload : Instr → List Byte
  | .rc _ b | .rdi _ b | .rhr _ b | .rir _ b | .wsc _ b | .wsr _ b => encodeQ8 b
  | .wmc _ b | .wmr _ b => encodeQM b
  | .illegal _ _ p => p

/-- The request of a function with a payload (R53 to R55). -/
def Fn.request (f : Fn) (id : Byte) (p : List Byte) : Instr :=
  match f with
  | .rc => .rc id (decodeQ8 p)
  | .rdi => .rdi id (decodeQ8 p)
  | .rhr => .rhr id (decodeQ8 p)
  | .rir => .rir id (decodeQ8 p)
  | .wsc => .wsc id (decodeQ8 p)
  | .wsr => .wsr id (decodeQ8 p)
  | .wmc => .wmc id (decodeQM p)
  | .wmr => .wmr id (decodeQM p)

/-- R53: a function's code reads as its request. -/
theorem decodeBody_code (f : Fn) (id : Byte) (p : List Byte) : decodeBody id f.code p = f.request id p := by
  cases f <;> rfl

/-- R113: every other code reads as an illegal request. -/
theorem decodeBody_of_functionOf_none {fc : Byte} (h : functionOf fc = none) (id : Byte) (p : List Byte) :
    decodeBody id fc p = .illegal id fc p := by
  simp only [decodeBody, h]

/-- What the decoder reads: the request of a function of R53, or an illegal one. -/
theorem decodeBody_cases (id fc : Byte) (p : List Byte) :
    (∃ f : Fn, fc = f.code ∧ decodeBody id fc p = f.request id p) ∨
    (functionOf fc = none ∧ decodeBody id fc p = .illegal id fc p) := by
  cases h : functionOf fc with
  | some f =>
    obtain rfl := code_of_functionOf h
    exact .inl ⟨f, rfl, decodeBody_code f id p⟩
  | none => exact .inr ⟨rfl, decodeBody_of_functionOf_none h id p⟩

section
variable (f : Fn) (id : Byte) (p : List Byte)

@[simp] theorem Fn.request_id : (f.request id p).id = id := by cases f <;> rfl

@[simp] theorem Fn.request_fc : (f.request id p).fc = f.code := by cases f <;> rfl

@[simp] theorem Fn.request_space : (f.request id p).space? = some (Machine.fnRegion f) := by cases f <;> rfl

@[simp] theorem Fn.request_payload : (f.request id p).payload = p := by
  cases f with
  | rc | rdi | rhr | rir | wsc | wsr => exact encodeQ8_decodeQ8 p
  | wmc | wmr => exact encodeQM_decodeQM p

theorem Fn.request_wf {p : List Byte} (h : p.length ≤ 252) : (f.request id p).wf = true := by
  cases f with
  | rc | rdi | rhr | rir | wsc | wsr => exact decodeQ8_wf h
  | wmc | wmr => exact decodeQM_wf h

end

/-- R50, R53: the decoder keeps address, function code and payload. -/
theorem decodeBody_parts (id fc : Byte) (p : List Byte) :
    (decodeBody id fc p).id = id ∧ (decodeBody id fc p).fc = fc ∧ (decodeBody id fc p).payload = p := by
  rcases decodeBody_cases id fc p with ⟨f, rfl, e⟩ | ⟨-, e⟩
  · simp [e]
  · rw [e]
    exact ⟨rfl, rfl, rfl⟩

/-- R51, R57: what the decoder reads from a payload that fits the buffer is well-formed. -/
theorem decodeBody_wf (id fc : Byte) {p : List Byte} (h : p.length ≤ 252) : (decodeBody id fc p).wf = true := by
  rcases decodeBody_cases id fc p with ⟨f, rfl, e⟩ | ⟨hnone, e⟩
  · rw [e]
    exact f.request_wf id h
  · rw [e, Instr.wf, functionOf_eq_none.1 hnone]
    simpa using h

/-- R50: a request's frame is address, function code, payload and CRC. -/
theorem encode_eq (i : Instr) : encode i = sign (i.id :: i.fc :: i.payload) := by cases i <;> rfl

/-- R51: the payload of a well-formed request fits the buffer. -/
theorem payload_length_le {i : Instr} (hw : i.wf = true) : i.payload.length ≤ 252 := by
  cases i with
  | rc id b | rdi id b | rhr id b | rir id b | wsc id b | wsr id b => exact Laws.encodeQ8_length hw
  | wmc id b | wmr id b => exact Laws.encodeQM_length hw
  | illegal id fc p => exact of_decide_eq_true (Bool.and_eq_true_iff.1 hw).2

/-- R53, R57: a well-formed request is the one its address, function code and payload select. -/
theorem decodeBody_of_parts {i : Instr} (hw : i.wf = true) : decodeBody i.id i.fc i.payload = i := by
  cases i with
  | rc id b => exact (decodeBody_code .rc id _).trans (congrArg (Instr.rc id) (decodeQ8_encodeQ8 hw))
  | rdi id b => exact (decodeBody_code .rdi id _).trans (congrArg (Instr.rdi id) (decodeQ8_encodeQ8 hw))
  | rhr id b => exact (decodeBody_code .rhr id _).trans (congrArg (Instr.rhr id) (decodeQ8_encodeQ8 hw))
  | rir id b => exact (decodeBody_code .rir id _).trans (congrArg (Instr.rir id) (decodeQ8_encodeQ8 hw))
  | wsc id b => exact (decodeBody_code .wsc id _).trans (congrArg (Instr.wsc id) (decodeQ8_encodeQ8 hw))
  | wsr id b => exact (decodeBody_code .wsr id _).trans (congrArg (Instr.wsr id) (decodeQ8_encodeQ8 hw))
  | wmc id b => exact (decodeBody_code .wmc id _).trans (congrArg (Instr.wmc id) (decodeQM_encodeQM hw))
  | wmr id b => exact (decodeBody_code .wmr id _).trans (congrArg (Instr.wmr id) (decodeQM_encodeQM hw))
  | illegal id fc p =>
    have hcode : functionCodes.contains fc = false := by simpa using (Bool.and_eq_true_iff.1 hw).1
    exact decodeBody_of_functionOf_none (functionOf_eq_none.2 hcode) id p

/-- Settles O1: a well-formed request's frame is signed, and its three parts read back as the request. -/
theorem decodeOfEncodeIsIdentity : Obligations.DecodeOfEncodeIsIdentity := by
  unfold Obligations.DecodeOfEncodeIsIdentity
  intro i hw
  rw [encode_eq, decode_sign i.id i.fc (payload_length_le hw), decodeBody_of_parts hw]

/-- Settles O2: the decoder keeps every part of the frame, and a matching CRC is the one the encoder appends. -/
theorem encodeOfDecodeIsIdentity : Obligations.EncodeOfDecodeIsIdentity := by
  unfold Obligations.EncodeOfDecodeIsIdentity
  intro frame i hdecode
  obtain ⟨id, fc, p, c1, c2, rfl, rfl, hlen⟩ := decode_cases hdecode
  refine ⟨decodeBody_wf id fc hlen, fun hcrc => ?_⟩
  obtain ⟨hid, hfc, hpayload⟩ := decodeBody_parts id fc p
  have hfield : [c1, c2] = crcField (id :: fc :: p) := (crcMatches_append_iff (id :: fc :: p) c1 c2).1 hcrc
  rw [encode_eq, hid, hfc, hpayload, sign, ← hfield]
  rfl

/-! ### What the decoder reads -/

/-- R53: the only requests without a region are those whose code selects no function. -/
theorem decodeBody_space_eq_none (id fc : Byte) (p : List Byte) :
    (decodeBody id fc p).space? = none ↔ functionOf fc = none := by
  rcases decodeBody_cases id fc p with ⟨f, rfl, e⟩ | ⟨hnone, e⟩
  · simp [e, functionOf_code]
  · simp [e, hnone, Instr.space?]

/-- Settles O3, by the decoder's two length tests and what it reads of the other frames. -/
theorem decoderSelectsByFunctionCode : Obligations.DecoderSelectsByFunctionCode := by
  unfold Obligations.DecoderSelectsByFunctionCode
  intro frame
  refine ⟨fun hshort => ?short, fun hlong => ?long, fun hmin hmax => ?frame⟩
  case short => rw [decode, if_pos hshort]
  case long => rw [decode, if_neg (by omega), if_pos (show bufCap < frame.length from hlong)]
  case frame =>
    obtain ⟨hid, hfc, -⟩ := decodeBody_parts (frame.getD 0 0) (frame.getD 1 0) ((frame.take (frame.length - 2)).drop 2)
    refine ⟨_, by rw [decode, if_neg (by omega), if_neg (show ¬ bufCap < frame.length by simpa using hmax)], hid, hfc, ?_⟩
    rw [decodeBody_space_eq_none, functionOf_eq_none, ← Bool.not_eq_true, List.contains_iff_mem]
    rfl

/-- R112: the fields a request of a function latches, from its payload. -/
theorem Fn.request_fields (f : Fn) (id : Byte) (p : List Byte) :
    (f.request id p).start = word (p.getD 0 0) (p.getD 1 0) ∧
    (f.request id p).qty = if f = .wsc ∨ f = .wsr then 1#16 else word (p.getD 2 0) (p.getD 3 0) := by
  obtain ⟨hstart8, hfield2, -⟩ := decodeQ8_fields p
  obtain ⟨hstartM, hqty, -⟩ := decodeQM_fields p
  cases f with
  | rc | rdi | rhr | rir => exact ⟨hstart8, hfield2⟩
  | wsc | wsr => exact ⟨hstart8, rfl⟩
  | wmc | wmr => exact ⟨hstartM, hqty⟩

/-- R112: byte `k + 2` of a frame, if it stands before the CRC, is byte `k` of the payload, else 0. -/
theorem framePayload_getD (id fc c1 c2 : Byte) (p : List Byte) (k : Nat) :
    (if k + 2 + 2 < (id :: fc :: (p ++ [c1, c2])).length then (id :: fc :: (p ++ [c1, c2])).getD (k + 2) 0 else 0) =
      p.getD k 0 := by
  by_cases hk : k < p.length
  · rw [if_pos (by simp; omega)]
    simp [List.getD_eq_getElem?_getD, List.getElem?_append_left hk]
  · rw [if_neg (by simp; omega), List.getD_eq_default _ _ (by omega)]

/-- R53: the codes of the two single writes. -/
theorem Fn.code_single_iff (f : Fn) : f.code = 0x05#8 ∨ f.code = 0x06#8 ↔ f = .wsc ∨ f = .wsr := by
  cases f <;> decide

/-- Settles O4, by the fields of each kind of request. -/
theorem latchedFieldsArePayloadBytes : Obligations.LatchedFieldsArePayloadBytes := by
  unfold Obligations.LatchedFieldsArePayloadBytes
  intro frame i hdecode
  obtain ⟨id, fc, p, c1, c2, rfl, rfl, -⟩ := decode_cases hdecode
  simp only [framePayload_getD _ _ _ _ p 0, framePayload_getD _ _ _ _ p 1, framePayload_getD _ _ _ _ p 2,
    framePayload_getD _ _ _ _ p 3]
  rcases decodeBody_cases id fc p with ⟨f, rfl, e⟩ | ⟨hnone, e⟩
  · obtain ⟨hstart, hqty⟩ := f.request_fields id p
    rw [e, f.request_fc, hstart, hqty, f.code_single_iff]
    refine ⟨fun _ => Machine.word_toNat _ _, fun h => by simp at h, fun h => if_pos h, fun _ h5 h6 => ?_⟩
    rw [if_neg (fun h => (f.code_single_iff.2 h).elim h5 h6)]
    exact Machine.word_toNat _ _
  · have hcode : fc ≠ 0x05#8 ∧ fc ≠ 0x06#8 := by
      constructor <;> rintro rfl <;> exact absurd hnone (by decide)
    rw [e]
    exact ⟨fun h => absurd rfl h, fun _ => ⟨rfl, rfl⟩, fun h => absurd h (not_or.2 hcode), fun h => absurd rfl h⟩

/-- Settles O5, by running the decoder on each frame. -/
theorem specFramesDecode : Obligations.SpecFramesDecode := by
  unfold Obligations.SpecFramesDecode
  decide

end Sys2Proof
end

section
/-! The dispatcher: the states an answered request can leave, and the validation of R115 to R118. -/

namespace Sys2Proof.Machine

/-! ### The states a dispatch leaves -/

/-- R119: the state a legal read leaves, its data behind the count byte. -/
def completedRead (i : Instr) (data : List Byte) (s : State) : State := answered i (.ok data) s

/-- R119: the state a legal write leaves, with the new contents of the regions. -/
def completedWrite (i : Instr) (store : Store) (s : State) : State :=
  concludeDispatch (echoResponse { startAccess i s with store := store })

/-- What a write can do to the regions: `DI` and `IR` stay, and the other two keep their canonical form (R141). -/
def StoreWritten (store store' : Store) : Prop :=
  store'.di = store.di ∧ store'.ir = store.ir ∧ (Memory.wf store.coils → Memory.wf store'.coils) ∧
  (Memory.wf store.hr → Memory.wf store'.hr)

/-- A dispatch that answers a next state raised an exception 1, 2 or 3, completed a read or completed a write. -/
theorem exec_next_forms {i : Instr} {s t : State} (h : exec i s = .next t) :
    (∃ c, c ≠ .deviceFailure ∧ t = raised i c s) ∨
    (∃ data, data.length ≤ 250 ∧ t = completedRead i data s) ∨
    (∃ store, requestShape i = true ∧ StoreWritten s.store store ∧ t = completedWrite i store s) := by
  rcases exec_next_cases h with
    hraised | ⟨-, data, hlen, -, rfl⟩ | ⟨hshape, bits, -, -, -, rfl⟩ | ⟨hshape, words, -, -, -, rfl⟩
  · exact .inl hraised
  · exact .inr (.inl ⟨data, hlen, rfl⟩)
  · exact .inr (.inr ⟨{ s.store with coils := Memory.writeN s.store.coils i.start.toNat bits }, hshape,
      ⟨rfl, rfl, fun hw => Memory.writeN_wf hw _ _, id⟩, rfl⟩)
  · exact .inr (.inr ⟨{ s.store with hr := Memory.writeN s.store.hr i.start.toNat words }, hshape,
      ⟨rfl, rfl, id, fun hw => Memory.writeN_wf hw _ _⟩, rfl⟩)

section
variable (i : Instr) (data : List Byte) (store : Store) (s : State)

theorem reports_completedRead : Reports i 0#3 (completedRead i data s) := ⟨rfl, rfl, rfl, rfl⟩

theorem reports_completedWrite : Reports i 0#3 (completedWrite i store s) := ⟨rfl, rfl, rfl, rfl⟩

theorem dispatchFrame_completedRead : DispatchFrame s (completedRead i data s) := by
  simp [DispatchFrame, completedRead, answered, startAccess]

theorem dispatchFrame_completedWrite : DispatchFrame s (completedWrite i store s) := by
  simp [DispatchFrame, completedWrite, startAccess]

theorem completedRead_buf :
    (completedRead i data s).buf = Memory.writeN s.buf 2 (BitVec.ofNat 8 data.length :: data) := rfl

end

section
variable (i : Instr) {data : List Byte} (s : State)

/-- R131: a response has room for 250 data bytes, so its 9-bit length does not wrap. -/
theorem completedRead_respLen (h : data.length ≤ 250) : (completedRead i data s).respLen.toNat = 3 + data.length := by
  change (BitVec.ofNat 9 (3 + data.length)).toNat = 3 + data.length
  rw [BitVec.toNat_ofNat, Nat.mod_eq_of_lt (by omega)]

/-- R58: the count byte. -/
theorem completedRead_count : Memory.read (completedRead i data s).buf 2 = some (BitVec.ofNat 8 data.length) := by
  rw [completedRead_buf, Memory.read_writeN_in _ le_rfl (by simp)]
  rfl

/-- R58: the data bytes. -/
theorem completedRead_data {j : Nat} (hj : j < data.length) :
    Memory.read (completedRead i data s).buf (3 + j) = data[j]? := by
  rw [completedRead_buf, Memory.read_writeN_in _ (by omega) (by simp only [List.length_cons]; omega),
    show 3 + j - 2 = j + 1 by omega, List.getElem?_cons_succ]

/-- R58: the header and what lies beyond the response stay. -/
theorem completedRead_other {a : Nat} (ha : a < 2 ∨ 3 + data.length ≤ a) :
    Memory.read (completedRead i data s).buf a = Memory.read s.buf a := by
  rw [completedRead_buf, Memory.read_writeN_out _ (by simp only [List.length_cons]; omega)]

end

/-- R120: the codes the validation raises. -/
theorem code_toNat_le {c : ExcCode} (h : c ≠ .deviceFailure) : 1 ≤ c.code.toNat ∧ c.code.toNat ≤ 3 := by
  cases c with
  | deviceFailure => exact absurd rfl h
  | _ => decide

/-- Settles O34, by the three states a dispatch leaves. -/
theorem dispatchReportsAndNeverMutatesPartially : Obligations.DispatchReportsAndNeverMutatesPartially := by
  unfold Obligations.DispatchReportsAndNeverMutatesPartially
  intro i s t h
  rcases exec_next_forms h with ⟨c, hc, rfl⟩ | ⟨data, hlen, rfl⟩ | ⟨store, -, -, rfl⟩
  · obtain ⟨hreports, -, -, -, hother, hstore, hframe⟩ := raisedException_raised i c s
    refine ⟨hreports, hframe, (code_toNat_le hc).2, fun _ => hstore, hother 0 (by decide) (by decide), fun a ha => ?_⟩
    have ha : 3 ≤ a := ha
    exact hother a (by omega) (by omega)
  · have hexc : (completedRead i data s).exc.toNat ≤ 3 := Nat.zero_le _
    refine ⟨reports_completedRead i data s, dispatchFrame_completedRead i data s, hexc,
      fun _ => rfl, completedRead_other i s (.inl (by decide)), fun a ha => ?_⟩
    rw [completedRead_respLen i s hlen] at ha
    exact completedRead_other i s (.inr ha)
  · have hexc : (completedWrite i store s).exc.toNat ≤ 3 := Nat.zero_le _
    exact ⟨reports_completedWrite i store s, dispatchFrame_completedWrite i store s, hexc, fun h => absurd rfl h, rfl,
      fun _ _ => rfl⟩

/-- Settles O37: an exception body has 3 bytes, a write's 6, a read's 3 and its data. -/
theorem responseBodyFitsTheBuffer : Obligations.ResponseBodyFitsTheBuffer := by
  unfold Obligations.ResponseBodyFitsTheBuffer
  intro i s t h
  rcases exec_next_forms h with ⟨c, -, rfl⟩ | ⟨data, hlen, rfl⟩ | ⟨store, -, -, rfl⟩
  · exact (by decide : 3 ≤ (3#9).toNat ∧ (3#9).toNat ≤ 253)
  · rw [completedRead_respLen i s hlen]
    omega
  · exact (by decide : 3 ≤ (6#9).toNat ∧ (6#9).toNat ≤ 253)

/-! ### Validation -/

/-- Settles O23: an illegal request raises exception 1 whatever the state. -/
theorem unrecognisedFunctionRaisesOne : Obligations.UnrecognisedFunctionRaisesOne := by
  unfold Obligations.UnrecognisedFunctionRaisesOne
  intro id fc payload s
  exact ⟨_, exec_illegal id fc payload s, raisedException_raised _ .illegalFunction s⟩

/-- Settles O25: after the region the shape is checked. -/
theorem illegalShapeRaisesThree : Obligations.IllegalShapeRaisesThree := by
  unfold Obligations.IllegalShapeRaisesThree
  intro i sp s hw hsp hpresent hshape
  have hregion : regionPresent s sp = true := (regionPresent_iff s sp).2 hpresent
  have hcheck : requestShape i = false := Bool.not_eq_true _ ▸ mt (requestShape_iff i hw).1 hshape
  refine ⟨_, exec_of_firstFailure (c := .illegalValue) hsp ?_, raisedException_raised i .illegalValue s⟩
  rw [hregion, hcheck]
  rfl

/-- Settles O26: the range is checked last. -/
theorem rangeOutsideRegionRaisesTwo : Obligations.RangeOutsideRegionRaisesTwo := by
  unfold Obligations.RangeOutsideRegionRaisesTwo
  intro i sp s hw hsp hpresent hshape hrange
  have hregion : regionPresent s sp = true := (regionPresent_iff s sp).2 hpresent
  have hlegal : requestShape i = true := (requestShape_iff i hw).2 hshape
  have hcheck : rangeOk i.start i.qty (regionLen s sp) = false :=
    Bool.not_eq_true _ ▸ mt (rangeOk_iff _ _ _).1 (Nat.not_le.2 hrange)
  refine ⟨_, exec_of_firstFailure (c := .illegalAddress) hsp ?_, raisedException_raised i .illegalAddress s⟩
  rw [hregion, hlegal, hcheck]
  rfl

/-! ### The one stop -/

/-- A group write fails only where a cell was not provided. -/
theorem Memory.exists_absent_of_storeN_none {α : Type} {m : Memory α} {a : Nat} {vs : List α}
    (h : Memory.storeN m a vs = none) : ∃ k, k < vs.length ∧ Memory.read m (a + k) = none := by
  by_contra hall
  have hprovided (k : Nat) (hk : k < vs.length) : (Memory.read m (a + k)).isSome = true :=
    Option.isSome_iff_ne_none.2 fun hn => hall ⟨k, hk, hn⟩
  rw [Memory.storeN_of_provided hprovided] at h
  cases h

/-- U4: an access fails only on a cell of its range that the host did not provide. -/
theorem exists_absent_of_requestAccess_none {i : Instr} {sp : Space} {s : State} (hsp : i.space? = some sp)
    (h : requestAccess i s (startAccess i s) = none) :
    ∃ k, k < i.qty.toNat ∧ ¬ CellProvided s sp (i.start.toNat + k) := by
  cases i with
  | illegal id fc p => cases hsp
  | rc id b | rdi id b | rhr id b | rir id b =>
    cases hsp
    simp only [requestAccess, readBits, readWords, Option.map_eq_none_iff] at h
    obtain ⟨k, hk, hnone⟩ := (Memory.readN_eq_none_iff _ _ _).1 h
    exact ⟨k, hk, by simp [CellProvided, Instr.start, hnone]⟩
  | wsc id b | wmc id b =>
    cases hsp
    simp only [requestAccess, writeCoils, Option.map_eq_none_iff] at h
    obtain ⟨k, hk, hnone⟩ := Memory.exists_absent_of_storeN_none h
    have hnone : Memory.read s.store.coils (b.start.toNat + k) = none := hnone
    exact ⟨k, by simpa [Instr.qty] using hk, by simp [CellProvided, Instr.start, hnone]⟩
  | wsr id b | wmr id b =>
    cases hsp
    simp only [requestAccess, writeRegisters, Option.map_eq_none_iff] at h
    obtain ⟨k, hk, hnone⟩ := Memory.exists_absent_of_storeN_none h
    have hnone : Memory.read s.store.hr (b.start.toNat + k) = none := hnone
    exact ⟨k, by simpa [Instr.qty] using hk, by simp [CellProvided, Instr.start, hnone]⟩

/-- Settles O33: validation passes, and then only the access can stop. -/
theorem requestStopsOnlyOnUnprovidedCell : Obligations.RequestStopsOnlyOnUnprovidedCell := by
  unfold Obligations.RequestStopsOnlyOnUnprovidedCell
  intro i s hw
  cases hsp : i.space? with
  | none =>
    cases i with
    | illegal id fc p => exact .inl ⟨_, exec_illegal id fc p s⟩
    | _ => cases hsp
  | some sp =>
    rw [exec_eq i sp s hsp]
    cases hcheck : firstFailure (regionPresent s sp) (requestShape i) (rangeOk i.start i.qty (regionLen s sp)) with
    | some c => exact .inl ⟨_, rfl⟩
    | none =>
      cases haccess : requestAccess i s (startAccess i s) with
      | some u => exact .inl ⟨_, rfl⟩
      | none =>
        obtain ⟨hregion, hshape, hrange⟩ := (firstFailure_none_iff _ _ _).1 hcheck
        exact .inr ⟨rfl, sp, rfl, (regionPresent_iff s sp).1 hregion, (requestShape_iff i hw).1 hshape,
          (rangeOk_iff _ _ _).1 hrange, exists_absent_of_requestAccess_none hsp haccess⟩

/-! ### Broadcast requests -/

/-- The state with another address byte latched. -/
def withReqId (id : Byte) (s : State) : State := { s with req := { s.req with id := id } }

/-- What a broadcast request leaves, as the same request to another address leaves it (R124). -/
def asUnicast (id : Byte) (s : State) : State := { s with req := { s.req with id := id }, phase := .emit }

section
variable (i : Instr) (id : Byte) (s : State)

@[simp] theorem withId_id : (i.withId id).id = id := by cases i <;> rfl

/-- R122: the address byte decides nothing of the validation. -/
theorem withId_validation :
    (i.withId id).space? = i.space? ∧ (i.withId id).start = i.start ∧ (i.withId id).qty = i.qty ∧
    requestShape (i.withId id) = requestShape i := by
  cases i <;> exact ⟨rfl, rfl, rfl, rfl⟩

/-- R122: the address byte decides nothing of the access. -/
theorem requestAccess_withId : requestAccess (i.withId id) s = requestAccess i s := by cases i <;> rfl

/-- R111: an access starts from the same state, but for the latched address. -/
theorem startAccess_withId : startAccess (i.withId id) s = withReqId id (startAccess i s) := by cases i <;> rfl

/-- R125 to R138: an access neither reads nor writes the latches. -/
theorem requestAccess_withReqId (u : State) :
    requestAccess i s (withReqId id u) = (requestAccess i s u).map (withReqId id) := by
  cases i with
  | illegal => rfl
  | rc | rdi => simp only [requestAccess, readBits, Option.map_map]; rfl
  | rhr | rir => simp only [requestAccess, readWords, Option.map_map]; rfl
  | wsc | wmc => simp only [requestAccess, writeCoils, Option.map_map]; rfl
  | wsr | wmr => simp only [requestAccess, writeRegisters, Option.map_map]; rfl

end

section
variable {id : Byte} (hid : id ≠ 0#8) (s : State)
include hid

/-- R124: the address byte decides where a request leaves for, and nothing else of its end. -/
theorem concludeDispatch_withReqId : concludeDispatch (withReqId id s) = asUnicast id (concludeDispatch (withReqId 0#8 s)) := by
  have h : concludeDispatch (withReqId id s) =
      { asUnicast id (concludeDispatch (withReqId 0#8 s)) with phase := if id = 0#8 then .idle else .emit } := rfl
  rw [h, if_neg hid]
  rfl

/-- R178: the same of a raised exception. -/
theorem raised_withId (i : Instr) (c : ExcCode) : raised (i.withId id) c s = asUnicast id (raised (i.withId 0#8) c s) := by
  have h (a : Byte) : raised (i.withId a) c s =
      concludeDispatch (withReqId a (raiseException c (latch i.id i.fc i.start i.qty s))) := by cases i <;> rfl
  rw [h, h, concludeDispatch_withReqId hid]

/-- R122, R124: the outcome of a request with address byte `id`, from its outcome as a broadcast. -/
theorem exec_withId (i : Instr) : exec (i.withId id) s = mapNext (asUnicast id) (exec (i.withId 0#8) s) := by
  obtain ⟨hsp, hstart, hqty, hshape⟩ := withId_validation i id
  obtain ⟨hsp0, hstart0, hqty0, hshape0⟩ := withId_validation i 0#8
  cases hspace : i.space? with
  | none =>
    cases i with
    | illegal a fc p => exact congrArg Host.Outcome.next (raised_withId hid s (.illegal a fc p) .illegalFunction)
    | _ => cases hspace
  | some sp =>
    rw [exec_eq _ sp s (hsp.trans hspace), exec_eq _ sp s (hsp0.trans hspace), hstart, hqty, hshape, hstart0, hqty0,
      hshape0, requestAccess_withId, requestAccess_withId, startAccess_withId, startAccess_withId,
      requestAccess_withReqId, requestAccess_withReqId]
    cases firstFailure (regionPresent s sp) (requestShape i) (rangeOk i.start i.qty (regionLen s sp)) with
    | some c => exact congrArg Host.Outcome.next (raised_withId hid s i c)
    | none =>
      cases requestAccess i s (startAccess i s) with
      | none => rfl
      | some u => exact congrArg Host.Outcome.next (concludeDispatch_withReqId hid u)

end

/-- Settles O35: the outcomes differ as `exec_withId` says, and a broadcast ends in IDLE. -/
theorem broadcastExecutesLikeUnicast : Obligations.BroadcastExecutesLikeUnicast := by
  unfold Obligations.BroadcastExecutesLikeUnicast
  intro i id s t hid h
  obtain ⟨⟨-, -, -, hphase⟩, -⟩ := dispatchReportsAndNeverMutatesPartially (i.withId 0#8) s t h
  rw [withId_id, if_pos rfl] at hphase
  exact ⟨hphase, by rw [exec_withId hid, h]; rfl⟩

end Sys2Proof.Machine
end

section
/-! Completion: what the four reads answer and what the four writes store. -/

namespace Sys2Proof.Machine

/-- R115, R119: a request that passes the three checks performs its access. -/
theorem exec_of_legal {i : Instr} {sp : Space} {s u : State} (hsp : i.space? = some sp) (hpresent : Present s sp)
    (hrange : InRange s sp i.start i.qty) (hw : i.wf = true) (hshape : i.legalShape)
    (haccess : requestAccess i s (startAccess i s) = some u) : exec i s = .next (concludeDispatch u) := by
  have hcheck : firstFailure (regionPresent s sp) (requestShape i) (rangeOk i.start i.qty (regionLen s sp)) = none :=
    (firstFailure_none_iff _ _ _).2
      ⟨(regionPresent_iff s sp).2 hpresent, (requestShape_iff i hw).2 hshape, (rangeOk_iff _ _ _).2 hrange⟩
  simp only [exec_eq i sp s hsp, hcheck, haccess]

/-! ### Reads -/

/-- A legal read whose data the host provides completes with them. -/
theorem exec_read_of_legal {i : Instr} {sp : Space} {s : State} {data : List Byte} (hread : i.isRead = true)
    (hsp : i.space? = some sp) (hpresent : Present s sp) (hrange : InRange s sp i.start i.qty) (hw : i.wf = true)
    (hshape : i.legalShape) (hdata : readData i s.store = some data) : exec i s = .next (completedRead i data s) := by
  refine exec_of_legal hsp hpresent hrange hw hshape ?_
  rw [requestAccess_of_isRead hread, hdata]
  rfl

/-- A group read of cells given by a function. -/
theorem Memory.readN_of_cells {α : Type} {m : Memory α} {a n : Nat} {cell : Nat → α}
    (h : ∀ k, k < n → Memory.read m (a + k) = some (cell k)) :
    Memory.readN m a n = some ((List.range n).map cell) := by
  rw [Memory.readN_eq_some_iff]
  exact ⟨by simp, fun k hk => by simp [h k hk, hk]⟩

/-- R61: a cell of a bit read, or the padding. -/
theorem getD_map_range (n : Nat) (cell : Nat → Bool) (k : Nat) :
    ((List.range n).map cell).getD k false = (decide (k < n) && cell k) := by
  by_cases hk : k < n <;> simp [List.getD_eq_getElem?_getD, hk]

/-- R61, R125: data byte `j` of a bit read, by all its bits. -/
theorem packBits_byte (cells : List Bool) {j : Nat} (hj : j < ceil8 cells.length) :
    ∃ d, (packBits cells)[j]? = some d ∧ ∀ b, b < 8 → d.getLsbD b = cells.getD (8 * j + b) false := by
  obtain ⟨d, hd, -⟩ := packBits_bit cells hj (b := 0) (by decide)
  refine ⟨d, hd, fun b hb => ?_⟩
  obtain ⟨d', hd', hbit⟩ := packBits_bit cells hj hb
  obtain rfl : d = d' := Option.some.inj (hd.symm.trans hd')
  exact hbit

/-- Settles O27: the response of a completed bit read, whichever region its cells are of. -/
theorem bitReadsPackCellsLsbFirst : Obligations.BitReadsPackCellsLsbFirst := by
  unfold Obligations.BitReadsPackCellsLsbFirst
  intro s id start q cell hmin hmax good
  have hlen : (packBits ((List.range q.toNat).map cell)).length = (q.toNat + 7) / 8 := by simp [ceil8]
  have hgood (i : Instr) (hexec : exec i s = .next (completedRead i (packBits ((List.range q.toNat).map cell)) s)) :
      good i := by
    refine ⟨_, hexec, reports_completedRead i _ s, ?length, ⟨_, completedRead_count i s, ?count⟩, fun j hj => ?data,
      fun a ha => completedRead_other i s (by rwa [hlen]), rfl, dispatchFrame_completedRead i _ s⟩
    case length => rw [completedRead_respLen i s (by omega), hlen]
    case count => rw [BitVec.toNat_ofNat, hlen, Nat.mod_eq_of_lt (by omega)]
    case data =>
      obtain ⟨d, hd, hbits⟩ := packBits_byte ((List.range q.toNat).map cell) (j := j) (by simpa [ceil8] using hj)
      refine ⟨d, (completedRead_data i s (by omega)).trans hd, fun b hb => ?_⟩
      rw [hbits b hb, getD_map_range]
  refine ⟨fun hpresent hrange hcells => ?rc, fun hpresent hrange hcells => ?rdi⟩
  case rc =>
    refine hgood _ (exec_read_of_legal rfl rfl hpresent hrange rfl ⟨hmin, hmax⟩ ?_)
    exact congrArg (Option.map packBits) (Memory.readN_of_cells hcells)
  case rdi =>
    refine hgood _ (exec_read_of_legal rfl rfl hpresent hrange rfl ⟨hmin, hmax⟩ ?_)
    exact congrArg (Option.map packBits) (Memory.readN_of_cells hcells)

/-- Settles O28: the response of a completed word read, whichever region its cells are of. -/
theorem wordReadsEmitBigEndianWords : Obligations.WordReadsEmitBigEndianWords := by
  unfold Obligations.WordReadsEmitBigEndianWords
  intro s id start q cell hmin hmax good
  have hlen : (packWords ((List.range q.toNat).map cell)).length = 2 * q.toNat := by simp
  have hgood (i : Instr) (hexec : exec i s = .next (completedRead i (packWords ((List.range q.toNat).map cell)) s)) :
      good i := by
    refine ⟨_, hexec, reports_completedRead i _ s, ?length, ⟨_, completedRead_count i s, ?count⟩, fun k hk => ?data,
      fun a ha => completedRead_other i s (by rwa [hlen]), rfl, dispatchFrame_completedRead i _ s⟩
    case length => rw [completedRead_respLen i s (by omega), hlen]
    case count => rw [BitVec.toNat_ofNat, hlen, Nat.mod_eq_of_lt (by omega)]
    case data =>
      obtain ⟨hhi, hlo⟩ := packWords_get ((List.range q.toNat).map cell) k
      refine ⟨hi (cell k), lo (cell k), ?_, ?_, by rw [← word_toNat, word_hi_lo]⟩
      · rw [completedRead_data i s (by omega), hhi]
        simp [hk]
      · rw [show 4 + 2 * k = 3 + (2 * k + 1) by omega, completedRead_data i s (by omega), hlo]
        simp [hk]
  refine ⟨fun hpresent hrange hcells => ?rhr, fun hpresent hrange hcells => ?rir⟩
  case rhr =>
    refine hgood _ (exec_read_of_legal rfl rfl hpresent hrange rfl ⟨hmin, hmax⟩ ?_)
    exact congrArg (Option.map packWords) (Memory.readN_of_cells hcells)
  case rir =>
    refine hgood _ (exec_read_of_legal rfl rfl hpresent hrange rfl ⟨hmin, hmax⟩ ?_)
    exact congrArg (Option.map packWords) (Memory.readN_of_cells hcells)

/-! ### Writes -/

/-- A legal write of provided coils completes with them replaced (R135, R137). -/
theorem exec_writeCoils_of_legal {i : Instr} {s : State} {bits : List Bool} (hsp : i.space? = some .coils)
    (haccess : requestAccess i s = writeCoils i.start bits) (hpresent : Present s .coils)
    (hrange : InRange s .coils i.start i.qty) (hw : i.wf = true) (hshape : i.legalShape)
    (hprovided : ∀ k, k < bits.length → (Memory.read s.store.coils (i.start.toNat + k)).isSome = true) :
    exec i s = .next
      (completedWrite i { s.store with coils := Memory.writeN s.store.coils i.start.toNat bits } s) := by
  have hstore : Memory.storeN (startAccess i s).store.coils i.start.toNat bits = _ := Memory.storeN_of_provided hprovided
  refine exec_of_legal hsp hpresent hrange hw hshape ?_
  rw [haccess, writeCoils, hstore]
  rfl

/-- A legal write of provided registers completes with them replaced (R136, R138). -/
theorem exec_writeRegisters_of_legal {i : Instr} {s : State} {words : List Word} (hsp : i.space? = some .hr)
    (haccess : requestAccess i s = writeRegisters i.start words) (hpresent : Present s .hr)
    (hrange : InRange s .hr i.start i.qty) (hw : i.wf = true) (hshape : i.legalShape)
    (hprovided : ∀ k, k < words.length → (Memory.read s.store.hr (i.start.toNat + k)).isSome = true) :
    exec i s = .next
      (completedWrite i { s.store with hr := Memory.writeN s.store.hr i.start.toNat words } s) := by
  have hstore : Memory.storeN (startAccess i s).store.hr i.start.toNat words = _ := Memory.storeN_of_provided hprovided
  refine exec_of_legal hsp hpresent hrange hw hshape ?_
  rw [haccess, writeRegisters, hstore]
  rfl

/-- Element `k` of a group write stands at index `a + k`. -/
theorem Memory.read_writeN_add {α : Type} (m : Memory α) (a : Nat) {vs : List α} {k : Nat} (hk : k < vs.length) :
    Memory.read (Memory.writeN m a vs) (a + k) = vs[k]? := by
  rw [Memory.read_writeN_in m (Nat.le_add_right a k) (Nat.add_lt_add_left hk a), Nat.add_sub_cancel_left]

/-- The one cell of a single write is provided. -/
theorem provided_singleton {α β : Type} {m : Memory α} {a : Nat} (v : β) (h : (Memory.read m a).isSome = true) :
    ∀ k, k < [v].length → (Memory.read m (a + k)).isSome = true := by
  intro k hk
  obtain rfl : k = 0 := by simpa using hk
  exact h

/-- Settles O29: a completed write of one coil. -/
theorem writeSingleCoilWritesOneCoil : Obligations.WriteSingleCoilWritesOneCoil := by
  unfold Obligations.WriteSingleCoilWritesOneCoil
  intro s id addr value hpresent hvalue haddr hprovided
  refine ⟨_, exec_writeCoils_of_legal rfl rfl hpresent (Nat.succ_le_of_lt haddr) rfl hvalue
    (provided_singleton _ hprovided), reports_completedWrite .., ?written, fun a ha => ?other, rfl, rfl, rfl, rfl, rfl,
    dispatchFrame_completedWrite ..⟩
  case written => exact Memory.read_write_same ..
  case other => exact Memory.read_write_other _ _ ha.symm

/-- Settles O30: a completed write of one register. -/
theorem writeSingleRegisterWritesOneRegister : Obligations.WriteSingleRegisterWritesOneRegister := by
  unfold Obligations.WriteSingleRegisterWritesOneRegister
  intro s id addr value hpresent haddr hprovided
  refine ⟨_, exec_writeRegisters_of_legal rfl rfl hpresent (Nat.succ_le_of_lt haddr) rfl trivial
    (provided_singleton _ hprovided), reports_completedWrite .., ?written, fun a ha => ?other, rfl, rfl, rfl, rfl, rfl,
    dispatchFrame_completedWrite ..⟩
  case written => exact Memory.read_write_same ..
  case other => exact Memory.read_write_other _ _ ha.symm

/-- R57: data that fit the largest payload are well-formed. -/
theorem fit_wf (start q : Word) {data : List Byte} (h : data.length + 5 ≤ 252) : (QM.fit start q data).wf = true :=
  decide_eq_true h

/-- Settles O31: a completed write of `q` coils. -/
theorem writeMultipleCoilsUnpacksBits : Obligations.WriteMultipleCoilsUnpacksBits := by
  unfold Obligations.WriteMultipleCoilsUnpacksBits
  intro s id start q data hpresent hrange hmin hmax hlen hprovided
  have hcount : (unpackBits q.toNat data).length = q.toNat := unpackBits_length q.toNat data
  refine ⟨_, exec_writeCoils_of_legal rfl rfl hpresent hrange (fit_wf start q (by omega)) ⟨hmin, hmax, hlen⟩
    (fun k hk => hprovided k (hk.trans_eq hcount)), reports_completedWrite .., fun k hk => ?written, fun a ha => ?other,
    rfl, rfl, rfl, rfl, rfl, dispatchFrame_completedWrite ..⟩
  case written => exact (Memory.read_writeN_add _ _ (hk.trans_eq hcount.symm)).trans (unpackBits_get q.toNat data hk)
  case other => exact Memory.read_writeN_out _ (ha.imp_right fun h => (congrArg (start.toNat + ·) hcount).trans_le h)

/-- Settles O32: a completed write of `q` registers. -/
theorem writeMultipleRegistersUnpacksWords : Obligations.WriteMultipleRegistersUnpacksWords := by
  unfold Obligations.WriteMultipleRegistersUnpacksWords
  intro s id start q data hpresent hrange hmin hmax hlen hprovided
  have hcount : (unpackWords q.toNat data).length = q.toNat := unpackWords_length q.toNat data
  refine ⟨_, exec_writeRegisters_of_legal rfl rfl hpresent hrange (fit_wf start q (by omega)) ⟨hmin, hmax, hlen⟩
    (fun k hk => hprovided k (hk.trans_eq hcount)), reports_completedWrite .., fun k hk => ?written, fun a ha => ?other,
    rfl, rfl, rfl, rfl, rfl, dispatchFrame_completedWrite ..⟩
  case written =>
    exact ⟨_, (Memory.read_writeN_add _ _ (hk.trans_eq hcount.symm)).trans (unpackWords_get q.toNat data hk), word_toNat ..⟩
  case other => exact Memory.read_writeN_out _ (ha.imp_right fun h => (congrArg (start.toNat + ·) hcount).trans_le h)

end Sys2Proof.Machine
end

section
/-! The host, the reset input and the line: the steps of the other agents. -/

namespace Sys2Proof.Machine

/-! ### Steps by the head of the script -/

section
variable {s : State} {rest : List Action}

/-- The host's operation is the step. -/
theorem step_of_host {op : HostOp} (h : s.script = .host op :: rest) :
    step s = .next (settle s (hostOp op (begun s rest))) := by
  simp only [step, agentsStep, agentsAct, clearEvent_script, h]
  rfl

/-- The received byte is the step. -/
theorem step_of_receive {b : Byte} (h : s.script = .receive b :: rest) :
    step s = .next (settle s (lineAppend b (begun s rest))) := by
  simp only [step, agentsStep, agentsAct, clearEvent_script, h]
  rfl

/-- The end of the transmission is the step. -/
theorem step_of_txDone (h : s.script = .txDone :: rest) : step s = .next (settle s (lineDone (begun s rest))) := by
  simp only [step, agentsStep, agentsAct, clearEvent_script, h]
  rfl

/-- The reset is the step. -/
theorem step_of_reset (h : s.script = .reset :: rest) : step s = .next (engineReset (begun s rest)) := by
  simp only [step, agentsStep, agentsAct, clearEvent_script, h]
  rfl

end

/-- Where the enabled rule stays the same, so does its wait (log 6). -/
theorem settle_of_enabledRule_eq {before after : State} (h : enabledRule after = enabledRule before) :
    settle before after = after := by
  rw [settle, if_pos h]

/-- A wait is kept or starts again (log 6). -/
theorem settle_waited_cases (before after : State) :
    (settle before after).waited = after.waited ∨ (settle before after).waited = 0 := ite_eq_or_eq _ _ _

/-! ### The timing model -/

/-- R75: a character has 10 to 12 bits. -/
theorem bitsPerChar_bounds (parity : Parity) (stop2 : Bool) :
    10 ≤ bitsPerChar parity stop2 ∧ bitsPerChar parity stop2 ≤ 12 := by
  cases parity <;> cases stop2 <;> decide

/-- R75, by start bit, data bits, parity bit and stop bits. -/
theorem bitsPerChar_eq (parity : Parity) (stop2 : Bool) :
    bitsPerChar parity stop2 = 10 + (if parity = .none then 0 else 1) + (if stop2 = true then 1 else 0) := by
  cases parity <;> cases stop2 <;> rfl

/-- A quotient grows when the dividend grows by the divisor or more. -/
theorem div_lt_div_of_add_le {a b d : Nat} (hd : 0 < d) (h : a + d ≤ b) : a / d < b / d := by
  calc a / d
    _ < a / d + 1 := Nat.lt_succ_self _
    _ = (a + d) / d := (Nat.add_div_right a hd).symm
    _ ≤ b / d := Nat.div_le_div_right h

/-- Settles O9: below the threshold the dividends differ by at least the baud rate, above it by the constants. -/
theorem charTimeoutBelowFrameTimeout : Obligations.CharTimeoutBelowFrameTimeout := by
  unfold Obligations.CharTimeoutBelowFrameTimeout
  intro baud parity stop2 hpos _
  obtain ⟨hmin, hmax⟩ := bitsPerChar_bounds parity stop2
  generalize bitsPerChar parity stop2 = bpc at hmin hmax
  by_cases hslow : baud ≤ 19200
  · rw [charTimeoutOf, frameTimeoutOf, if_pos hslow, if_pos hslow]
    have hquotient := Nat.div_le_self (bpc * 4500000) baud
    exact ⟨div_lt_div_of_add_le hpos (by omega), by omega⟩
  · rw [charTimeoutOf, frameTimeoutOf, if_neg hslow, if_neg hslow]
    have hquotient := Nat.div_le_self (bpc * 1000000) baud
    exact ⟨by omega, by omega⟩

/-- R78: both timeouts fit their registers. -/
theorem setTimeouts_toNat (baud : BitVec 32) (parity : Parity) (stop2 : Bool) (s : State) (hpos : 0 < baud.toNat) :
    (setTimeouts baud parity stop2 s).conf.charTimeout.toNat = charTimeoutOf baud.toNat (bitsPerChar parity stop2) ∧
    (setTimeouts baud parity stop2 s).conf.frameTimeout.toNat = frameTimeoutOf baud.toNat (bitsPerChar parity stop2) := by
  obtain ⟨hlt, hle⟩ := charTimeoutBelowFrameTimeout baud.toNat parity stop2 hpos baud.isLt
  simp only [setTimeouts_conf, BitVec.toNat_ofNat]
  exact ⟨Nat.mod_eq_of_lt (by omega), Nat.mod_eq_of_lt (by omega)⟩

/-! ### INIT -/

/-- R160: the address is assigned exactly when it is in range, and is then the given one; the rest of the state stays. -/
theorem assignAddress_eq (id : Byte) (s : State) :
    ∃ a f, assignAddress id s =
        { s with
          conf := { s.conf with stationId := a, idAssigned := decide (1 ≤ id.toNat ∧ id.toNat ≤ 247) }, free := f } ∧
      (1 ≤ id.toNat ∧ id.toNat ≤ 247 → a = id) := by
  rw [assignAddress]
  by_cases h : 1 ≤ id.toNat ∧ id.toNat ≤ 247
  · exact ⟨id, s.free, by rw [if_pos h, decide_eq_true h], fun _ => rfl⟩
  · exact ⟨_, _, by rw [if_neg h, decide_eq_false h], fun h' => absurd h' h⟩

/-- R167: INIT and CFG are accepted in UNCONF and IDLE. -/
theorem hostReady_iff (s : State) : hostReady s = true ↔ s.phase = .unconf ∨ s.phase = .idle := by
  simp [hostReady]

/-- Settles O10: INIT's three effects on the state the step begins from. -/
theorem initSetsAddressTimeoutsAndDrains : Obligations.InitSetsAddressTimeoutsAndDrains := by
  unfold Obligations.InitSetsAddressTimeoutsAndDrains
  intro s rest id baud parity stop2 hscript hphase hbaud
  have hready : (hostReady (begun s rest) && decide (0 < baud.toNat)) = true := by
    rw [Bool.and_eq_true, hostReady_iff, decide_eq_true_eq]
    exact ⟨hphase, hbaud⟩
  have hop : hostOp (.init id baud parity stop2) (begun s rest) =
      startDrain (setTimeouts baud parity stop2 (assignAddress id (begun s rest))) := if_pos hready
  obtain ⟨a, f, hassign, haddress⟩ := assignAddress_eq id (begun s rest)
  obtain ⟨hchar, hframe⟩ := setTimeouts_toNat baud parity stop2 (assignAddress id (begun s rest)) hbaud
  refine ⟨_, step_of_host hscript, ?_⟩
  rw [hop]
  refine ⟨rfl, ?_⟩
  rw [hassign] at hchar hframe ⊢
  rw [bitsPerChar_eq] at hchar hframe
  refine ⟨rfl, fun h1 h2 => ⟨decide_eq_true ⟨h1, h2⟩, haddress ⟨h1, h2⟩⟩, fun h => decide_eq_false (by omega),
    ⟨hchar, hframe⟩, rfl, rfl, rfl, rfl, rfl, rfl, rfl, rfl, rfl, rfl, rfl, rfl, rfl, rfl, rfl, rfl, rfl, rfl, rfl⟩

/-! ### CFG, cell accesses and refusals -/

/-- An operation whose effect leaves the enabled rule leaves nothing but its effect. -/
theorem step_of_host_keeps_rule {s t : State} {op : HostOp} {rest : List Action} (h : s.script = .host op :: rest)
    (hop : hostOp op (begun s rest) = t) (hrule : enabledRule t = enabledRule s) : step s = .next t := by
  rw [step_of_host h, hop, settle_of_enabledRule_eq hrule]

/-- Settles O11: in UNCONF and IDLE the enabled rule reads no descriptor and no cell. -/
theorem cfgBindsAndSizesTheRegion : Obligations.CfgBindsAndSizesTheRegion := by
  unfold Obligations.CfgBindsAndSizesTheRegion
  intro s rest length bits words hphase s'
  have hready : hostReady (begun s rest) = true := (hostReady_iff _).2 hphase
  exact ⟨fun h => step_of_host_keeps_rule h (if_pos hready) rfl, fun h => step_of_host_keeps_rule h (if_pos hready) rfl,
    fun h => step_of_host_keeps_rule h (if_pos hready) rfl, fun h => step_of_host_keeps_rule h (if_pos hready) rfl,
    Memory.read_ofArray bits, Memory.read_ofArray words⟩

/-- Settles O12: each refused operation fails its own precondition. -/
theorem refusedHostOperationChangesNothing : Obligations.RefusedHostOperationChangesNothing := by
  unfold Obligations.RefusedHostOperationChangesNothing
  intro s rest op hscript hrefused
  refine step_of_host_keeps_rule (t := begun s rest) hscript ?_ rfl
  rcases hrefused with ⟨id, parity, stop2, rfl⟩ | ⟨hunconf, hidle, hop⟩
  · exact if_neg (by simp)
  · have hready : ¬ hostReady (begun s rest) = true := fun h => ((hostReady_iff _).1 h).elim hunconf hidle
    rcases hop with ⟨id, baud, parity, stop2, rfl⟩ | ⟨n, c, rfl⟩ | ⟨n, c, rfl⟩ | ⟨n, c, rfl⟩ | ⟨n, c, rfl⟩
    · exact if_neg (by simp [hready])
    all_goals exact if_neg hready

/-- Settles O13: a write to one memory, and no rule's guard reads a cell. -/
theorem hostCellWriteChangesOneCell : Obligations.HostCellWriteChangesOneCell := by
  unfold Obligations.HostCellWriteChangesOneCell
  intro s rest a bit w
  refine ⟨fun h => ⟨_, step_of_host_keeps_rule h rfl rfl, ?_⟩, fun h => ⟨_, step_of_host_keeps_rule h rfl rfl, ?_⟩,
    fun h => ⟨_, step_of_host_keeps_rule h rfl rfl, ?_⟩, fun h => ⟨_, step_of_host_keeps_rule h rfl rfl, ?_⟩⟩
  all_goals exact ⟨Memory.read_write_same _ _ _, fun b hb => Memory.read_write_other _ _ hb.symm⟩

/-- Settles O58: the operation is the identity. -/
theorem hostCellReadChangesNothing : Obligations.HostCellReadChangesNothing := by
  unfold Obligations.HostCellReadChangesNothing
  intro s rest sp a hscript
  exact step_of_host_keeps_rule hscript rfl rfl

/-! ### Reset -/

/-- Settles O14: the step is `engineReset`. -/
theorem resetReachesOnlyTheEngine : Obligations.ResetReachesOnlyTheEngine := by
  unfold Obligations.ResetReachesOnlyTheEngine
  intro s rest hscript
  rw [step_of_reset hscript]
  rfl

/-- Settles O15, field by field and region by region. -/
theorem resetStateHasSpecifiedValues : Obligations.ResetStateHasSpecifiedValues := by
  unfold Obligations.ResetStateHasSpecifiedValues
  refine ⟨rfl, rfl, rfl, fun sp => ?_, rfl, rfl, rfl, rfl⟩
  cases sp <;> rfl

/-! ### The line -/

/-- R37, R202: a full queue drops the byte. -/
theorem lineAppend_eq (b : Byte) (s : State) :
    lineAppend b s =
      { s with rxq := if (∃ d, s.par.rxqDepth = some d ∧ d ≤ s.rxq.length) then s.rxq else s.rxq ++ [b] } := by
  rw [lineAppend]
  cases hdepth : s.par.rxqDepth with
  | none => simp
  | some d => by_cases hfull : d ≤ s.rxq.length <;> simp [hfull]

/-- Settles O42: the line appends or drops, and the wait is kept or starts again. -/
theorem receivedByteIsQueuedOrDropped : Obligations.ReceivedByteIsQueuedOrDropped := by
  unfold Obligations.ReceivedByteIsQueuedOrDropped
  intro s rest b hscript
  refine ⟨(settle s (lineAppend b (begun s rest))).waited, ?_, ?_⟩
  · rw [step_of_receive hscript, lineAppend_eq]
    rfl
  · have hkept : (lineAppend b (begun s rest)).waited = s.waited := by rw [lineAppend_eq]; rfl
    exact hkept ▸ settle_waited_cases s (lineAppend b (begun s rest))

/-- R151: the end of a transmission enables a rule in FLUSH alone, and only where it was awaited. -/
theorem enabledRule_lineDone_eq_iff (s : State) :
    enabledRule (lineDone s) = enabledRule s ↔ ¬ (s.phase = .flush ∧ s.txBusy = true) := by
  by_cases hflush : s.phase = .flush
  · rw [enabledRule_flush hflush, enabledRule_flush (s := lineDone s) hflush]
    cases hbusy : s.txBusy <;> simp [hflush]
  · have hsame : enabledRule (lineDone s) = enabledRule s := by
      simp only [enabledRule, lineDone_phase]
      cases hp : s.phase with
      | flush => exact absurd hp hflush
      | _ => rfl
    simp [hsame, hflush]

/-- Settles O57: the wait starts again exactly when the rule that leaves FLUSH becomes enabled. -/
theorem transmissionEndClearsTxBusyAlone : Obligations.TransmissionEndClearsTxBusyAlone := by
  unfold Obligations.TransmissionEndClearsTxBusyAlone
  intro s rest hscript
  have hrule : enabledRule (lineDone (begun s rest)) = enabledRule s ↔ ¬ (s.phase = .flush ∧ s.txBusy = true) :=
    enabledRule_lineDone_eq_iff (begun s rest)
  rw [step_of_txDone hscript]
  by_cases hflush : s.phase = .flush ∧ s.txBusy = true
  · rw [if_pos hflush, settle, if_neg (mt hrule.1 (not_not.2 hflush))]
    rfl
  · rw [if_neg hflush, settle, if_pos (hrule.2 hflush)]
    rfl

end Sys2Proof.Machine
end

section
/-! Frame acquisition: `DRAIN`, `IDLE`, `QUIET` and `DISPATCH` on the engine's turn. -/

namespace Sys2Proof.Machine

/-- R93: the rule of `DRAIN`. -/
theorem enabledRule_drain {s : State} (hp : s.phase = .drain) :
    enabledRule s =
      if s.rxq = [] then (if s.conf.frameTimeout.toNat ≤ elapsed s then some .drainQuiet else none)
      else some .drainDiscard := by
  cases hq : s.rxq <;> simp [enabledRule, hp, bytesAvailable, hq]

/-- R93 (a): the byte at the head of the queue is dropped. -/
theorem drainDiscard_of_cons {s : State} {b : Byte} {q : List Byte} (hq : s.rxq = b :: q) :
    drainDiscard s = { s with rxq := q, tMark := s.now } := by
  simp only [drainDiscard, hq]

/-- Settles O17, by the rule of `DRAIN`. -/
theorem drainDiscardsUntilQuiet : Obligations.DrainDiscardsUntilQuiet := by
  unfold Obligations.DrainDiscardsUntilQuiet
  intro s rest hp ht
  refine ⟨fun b q hq => ?discard, fun hq htime => ?quiet, fun hq htime => ?wait⟩
  case discard =>
    have hr : enabledRule s = some .drainDiscard := by simp [enabledRule_drain hp, hq]
    rw [step_of_turn ht hr, fire, drainDiscard_of_cons (s := begun s rest) hq]
    rfl
  case quiet =>
    have hr : enabledRule s = some .drainQuiet := by simp [enabledRule_drain hp, hq, htime]
    rw [step_of_turn ht hr]
    rfl
  case wait => simp [enabledRule_drain hp, hq, htime]

/-- R94: the rule of `IDLE`. -/
theorem enabledRule_idle {s : State} (hp : s.phase = .idle) :
    enabledRule s = if s.rxq = [] then none else some .idleStart := by
  cases hq : s.rxq <;> simp [enabledRule, hp, bytesAvailable, hq]

/-- Settles O18, by the rule of `IDLE`. -/
theorem idleStartsReceptionOnByte : Obligations.IdleStartsReceptionOnByte := by
  unfold Obligations.IdleStartsReceptionOnByte
  intro s rest hp ht
  refine ⟨fun hq => ?start, fun hq => ?wait⟩
  case start =>
    rw [step_of_turn ht ((enabledRule_idle hp).trans (if_neg hq))]
    rfl
  case wait => rw [enabledRule_idle hp, if_pos hq]

/-- R99: the rule of `QUIET`. -/
theorem enabledRule_quiet {s : State} (hp : s.phase = .quiet) :
    enabledRule s = if s.conf.frameTimeout.toNat ≤ elapsed s then some .quietEnd else none := by
  simp only [enabledRule, hp]

/-- Settles O20, by the rule of `QUIET`. -/
theorem quietLatchesSilence : Obligations.QuietLatchesSilence := by
  unfold Obligations.QuietLatchesSilence
  intro s rest hp ht
  refine ⟨fun htime => ?latch, fun htime => ?wait⟩
  case latch =>
    rw [step_of_turn ht ((enabledRule_quiet hp).trans (if_pos htime))]
    rfl
  case wait => rw [enabledRule_quiet hp, if_neg (Nat.not_le.2 htime)]

/-- R110: `DISPATCH` never waits. -/
theorem enabledRule_dispatch {s : State} (hp : s.phase = .dispatch) : enabledRule s = some .dispatch := by
  simp only [enabledRule, hp]

/-- Settles O22: the fetch is of the buffer, which the start of a step does not touch. -/
theorem stepRunsTheDecodedRequest : Obligations.StepRunsTheDecodedRequest := by
  unfold Obligations.StepRunsTheDecodedRequest
  intro s rest frame i hp ht hfetch hdecode
  have hfetch' : fetchFrame (begun s rest) = .ok frame := hfetch
  rw [step_of_turn ht (enabledRule_dispatch hp), fire, dispatchStep, hfetch']
  simp only [hdecode]
  rfl

end Sys2Proof.Machine
end

section
/-! What an engine step does, with the guard it was taken under, and what follows for every step of every agent. -/

namespace Sys2Proof.Machine

/-- An engine step from `s`, its guard and its effect, by the rules of R93 to R105, R110, R147 and R151. -/
inductive Fires (s : State) : State → Prop
  | discard {b : Byte} {q : List Byte} (hp : s.phase = .drain) (hq : s.rxq = b :: q) :
    Fires s { s with rxq := q, tMark := s.now }
  | drained (hp : s.phase = .drain) (hq : s.rxq = []) (htime : s.conf.frameTimeout.toNat ≤ elapsed s) :
    Fires s (drainQuiet s)
  | start (hp : s.phase = .idle) : Fires s (idleStart s)
  | received (hp : s.phase = .recv) : Fires s { s with phase := .quiet }
  | byte {b : Byte} {q : List Byte} (hp : s.phase = .recv) (hlen : s.len.toNat < 256) (hq : s.rxq = b :: q) :
    Fires s { s with buf := Memory.write s.buf s.len.toNat b, rxq := q, len := s.len + 1#9, tMark := s.now }
  | silence (hp : s.phase = .quiet) : Fires s (quietEnd s)
  | reject (hp : s.phase = .validate) : Fires s (rejectFrame s)
  | accept {frame : List Byte} (hp : s.phase = .validate) (hquiet : s.quietOk = true) (hlen : 4 ≤ s.len.toNat)
    (hread : readBuf s s.len.toNat = .ok frame) (hmatch : frameMatches s frame = true) : Fires s (acceptFrame s)
  | dispatch {frame : List Byte} {i : Instr} {u : State} (hp : s.phase = .dispatch)
    (hread : readBuf s s.len.toNat = .ok frame) (hdecode : decode frame = .ok i) (hexec : exec i s = .next u) : Fires s u
  | emit {body : List Byte} (hp : s.phase = .emit) (hread : readBuf s s.respLen.toNat = .ok body)
    (hroom : s.respLen.toNat + 2 ≤ 256) :
    Fires s { s with buf := Memory.writeN s.buf s.respLen.toNat (crcField body), tx := s.tx ++ sign body, txBusy := true,
                     txEn := true, phase := .flush }
  | flushed (hp : s.phase = .flush) (hdone : s.txBusy = false) : Fires s (flushStep s)

/-- R93: a byte is discarded from a queue that has one. -/
theorem guard_of_drainDiscard {s : State} (h : enabledRule s = some .drainDiscard) :
    s.phase = .drain ∧ ∃ b q, s.rxq = b :: q := by
  have hp : s.phase = .drain := by simpa using phase_of_enabledRule h
  rw [enabledRule_drain hp] at h
  cases hq : s.rxq with
  | nil =>
    rw [if_pos hq] at h
    split_ifs at h
    simp at h
  | cons b q => exact ⟨hp, b, q, rfl⟩

/-- R93: the line has been quiet for `frame_timeout`. -/
theorem guard_of_drainQuiet {s : State} (h : enabledRule s = some .drainQuiet) :
    s.phase = .drain ∧ s.rxq = [] ∧ s.conf.frameTimeout.toNat ≤ elapsed s := by
  have hp : s.phase = .drain := by simpa using phase_of_enabledRule h
  rw [enabledRule_drain hp] at h
  split_ifs at h with hq htime
  · exact ⟨hp, hq, htime⟩
  · simp at h

/-- R97: a byte is appended below the capacity, from a queue that has one. -/
theorem guard_of_recvByte {s : State} (h : enabledRule s = some .recvByte) :
    s.phase = .recv ∧ s.len.toNat < 256 ∧ ∃ b q, s.rxq = b :: q := by
  have hp : s.phase = .recv := by simpa using phase_of_enabledRule h
  simp only [enabledRule, hp] at h
  split_ifs at h with hfull hbeyond htime hbyte
  · simp at h
  · simp at h
  · obtain ⟨b, q, hq⟩ := List.exists_cons_of_length_pos hbyte
    have hcap : bufCap = 256 := rfl
    exact ⟨hp, by omega, b, q, hq⟩

/-- R151: FLUSH is left when the transmission is done. -/
theorem guard_of_flushDone {s : State} (h : enabledRule s = some .flushDone) : s.phase = .flush ∧ s.txBusy = false := by
  have hp : s.phase = .flush := by simpa using phase_of_enabledRule h
  rw [enabledRule_flush hp] at h
  split_ifs at h with hbusy
  exact ⟨hp, Bool.eq_false_iff.2 hbusy⟩

/-- THE INVERSION OF AN ENGINE STEP: an enabled rule that answers a next state did what its rule of the spec says. -/
theorem fires_of_fire {s u : State} {r : Rule} (hr : enabledRule s = some r) (h : fire r s = .next u) : Fires s u := by
  have hphase := phase_of_enabledRule hr
  cases r with
  | validate =>
    have hp : s.phase = .validate := by simpa using hphase
    rcases validateStep_cases h with rfl | ⟨rfl, hquiet, hlen, frame, hread, hmatch⟩
    · exact .reject hp
    · exact .accept hp hquiet hlen hread hmatch
  | dispatch =>
    have hp : s.phase = .dispatch := by simpa using hphase
    obtain ⟨frame, i, hread, hdecode, hexec⟩ := dispatchStep_cases h
    exact .dispatch hp hread hdecode hexec
  | emit =>
    have hp : s.phase = .emit := by simpa using hphase
    obtain ⟨body, hread, hroom, rfl⟩ := emitStep_cases h
    rw [transmit_sign]
    exact .emit hp hread hroom
  | drainDiscard =>
    obtain ⟨hp, b, q, hq⟩ := guard_of_drainDiscard hr
    obtain rfl := Host.Outcome.next.inj h
    rw [drainDiscard_of_cons hq]
    exact .discard hp hq
  | drainQuiet =>
    obtain ⟨hp, hq, htime⟩ := guard_of_drainQuiet hr
    obtain rfl := Host.Outcome.next.inj h
    exact .drained hp hq htime
  | recvByte =>
    obtain ⟨hp, hlen, b, q, hq⟩ := guard_of_recvByte hr
    obtain rfl := Host.Outcome.next.inj h
    rw [recvByte_of_cons hq]
    exact .byte hp hlen hq
  | idleStart =>
    obtain rfl := Host.Outcome.next.inj h
    exact .start (by simpa using hphase)
  | recvFull | recvExpire =>
    obtain rfl := Host.Outcome.next.inj h
    exact .received (by simpa using hphase)
  | quietEnd =>
    obtain rfl := Host.Outcome.next.inj h
    exact .silence (by simpa using hphase)
  | flushDone =>
    obtain ⟨hp, hdone⟩ := guard_of_flushDone hr
    obtain rfl := Host.Outcome.next.inj h
    exact .flushed hp hdone

end Sys2Proof.Machine
end

section
/-! Every step of every agent: what one action can change, and the statements about single steps of the whole machine. -/

namespace Sys2Proof.Machine

/-! ### The actions of the agents -/

/-- What one step from `s` does: the engine fires, nothing happens, the clock ticks, or the line, the host or the reset input
acts (R6, R7). -/
inductive Acts (s : State) : State → Prop
  | engine {rest : List Action} {u : State} (hfires : Fires (begun s rest) u) : Acts s (rearm u)
  | pass (rest : List Action) : Acts s (begun s rest)
  | tick (rest : List Action) (hmay : mayTick s = true) : Acts s (tick (begun s rest))
  | receive {b : Byte} {rest : List Action} (hscript : s.script = .receive b :: rest) :
    Acts s (settle s (lineAppend b (begun s rest)))
  | txDone {rest : List Action} (hscript : s.script = .txDone :: rest) : Acts s (settle s (lineDone (begun s rest)))
  | host {op : HostOp} {rest : List Action} (hscript : s.script = .host op :: rest) :
    Acts s (settle s (hostOp op (begun s rest)))
  | reset {rest : List Action} (hscript : s.script = .reset :: rest) : Acts s (engineReset (begun s rest))

/-- THE INVERSION OF A STEP: `step_cases` with the guard and the effect of the rule that fired. -/
theorem acts_of_step {s t : State} (h : step s = .next t) : Acts s t := by
  rcases step_cases h with ⟨rest, r, u, -, hr, hf, rfl⟩ | ⟨rest, rfl⟩ | ⟨rest, hm, rfl⟩ | ⟨b, rest, hs, rfl⟩ |
    ⟨rest, hs, rfl⟩ | ⟨op, rest, hs, rfl⟩ | ⟨rest, hs, rfl⟩
  · exact .engine (fires_of_fire ((enabledRule_begun s rest).trans hr) hf)
  · exact .pass rest
  · exact .tick rest hm
  · exact .receive hs
  · exact .txDone hs
  · exact .host hs
  · exact .reset hs

/-! ### What a received byte leaves -/

section
variable (b : Byte) (s : State)

@[simp] theorem lineAppend_phase : (lineAppend b s).phase = s.phase := by rw [lineAppend_eq]
@[simp] theorem lineAppend_conf : (lineAppend b s).conf = s.conf := by rw [lineAppend_eq]
@[simp] theorem lineAppend_tMark : (lineAppend b s).tMark = s.tMark := by rw [lineAppend_eq]
@[simp] theorem lineAppend_txEn : (lineAppend b s).txEn = s.txEn := by rw [lineAppend_eq]
@[simp] theorem lineAppend_res : (lineAppend b s).res = s.res := by rw [lineAppend_eq]
@[simp] theorem lineAppend_store : (lineAppend b s).store = s.store := by rw [lineAppend_eq]
@[simp] theorem lineAppend_tx : (lineAppend b s).tx = s.tx := by rw [lineAppend_eq]
@[simp] theorem lineAppend_txBusy : (lineAppend b s).txBusy = s.txBusy := by rw [lineAppend_eq]
@[simp] theorem lineAppend_now : (lineAppend b s).now = s.now := by rw [lineAppend_eq]
@[simp] theorem lineAppend_script : (lineAppend b s).script = s.script := by rw [lineAppend_eq]

/-- R37: the queue keeps its bytes. -/
theorem lineAppend_rxq_prefix : s.rxq <+: (lineAppend b s).rxq := by
  rcases lineAppend_cases b s with e | e
  · rw [e]
  · rw [e]
    exact List.prefix_append ..

end

/-! ### What a host operation leaves -/

section
variable (op : HostOp) (s : State)

/-- R159 to R169: a host operation is an accepted INIT, or it changes descriptors and regions alone. -/
theorem hostOp_forms :
    ((s.phase = .unconf ∨ s.phase = .idle) ∧ (∃ id baud parity stop2, op = .init id baud parity stop2) ∧ ∃ conf free,
      hostOp op s = { s with conf := conf, free := free, tMark := s.now, phase := .drain }) ∨
    (∃ conf store, hostOp op s = { s with conf := conf, store := store } ∧ conf.frameTimeout = s.conf.frameTimeout) := by
  rcases hostOp_cases op s with e | ⟨hready, id, baud, parity, stop2, rfl, -, e⟩ | ⟨conf, store, e, -, -, -, htimeout⟩
  · exact .inr ⟨s.conf, s.store, e, rfl⟩
  · obtain ⟨a, f, hassign, -⟩ := assignAddress_eq id s
    exact .inl ⟨(hostReady_iff s).1 hready, ⟨id, baud, parity, stop2, rfl⟩, _, f, by rw [e, hassign]; rfl⟩
  · exact .inr ⟨conf, store, e, htimeout⟩

/-- Everything no host operation writes. -/
theorem hostOp_frame :
    (hostOp op s).par = s.par ∧ (hostOp op s).txEn = s.txEn ∧ (hostOp op s).res = s.res ∧ (hostOp op s).rxq = s.rxq ∧
    (hostOp op s).tx = s.tx ∧ (hostOp op s).txBusy = s.txBusy ∧ (hostOp op s).now = s.now ∧
    (hostOp op s).script = s.script := by
  rcases hostOp_forms op s with ⟨-, -, conf, free, e⟩ | ⟨conf, store, e, -⟩
  · rw [e]
    exact ⟨rfl, rfl, rfl, rfl, rfl, rfl, rfl, rfl⟩
  · rw [e]
    exact ⟨rfl, rfl, rfl, rfl, rfl, rfl, rfl, rfl⟩

/-- R159, R161: a host operation leaves the phase, or it is an INIT that starts the drain. -/
theorem hostOp_phase_cases :
    (hostOp op s).phase = s.phase ∨
    (hostOp op s).phase = .drain ∧ (s.phase = .unconf ∨ s.phase = .idle) ∧
      ∃ id baud parity stop2, op = .init id baud parity stop2 := by
  rcases hostOp_forms op s with ⟨hphase, hinit, conf, free, e⟩ | ⟨conf, store, e, -⟩
  · exact .inr ⟨by rw [e], hphase, hinit⟩
  · exact .inl (by rw [e])

end

/-! ### What an engine step leaves -/

/-- No rule of the engine writes the parameters, the configuration, the clock or the script. -/
theorem Fires.frame {s u : State} (h : Fires s u) :
    u.par = s.par ∧ u.conf = s.conf ∧ u.now = s.now ∧ u.script = s.script ∧ u.free = s.free := by
  cases h with
  | dispatch _ _ _ hexec =>
    obtain ⟨-, ⟨hpar, -, hconf, -, -, -, -, -, -, hnow, hscript, -, hfree⟩, -⟩ :=
      dispatchReportsAndNeverMutatesPartially _ _ _ hexec
    exact ⟨hpar, hconf, hnow, hscript, hfree⟩
  | _ => exact ⟨rfl, rfl, rfl, rfl, rfl⟩

/-- R124: a dispatch leaves for IDLE or EMIT. -/
theorem exec_phase {i : Instr} {s u : State} (h : exec i s = .next u) : u.phase = .idle ∨ u.phase = .emit := by
  obtain ⟨⟨-, -, -, hphase⟩, -⟩ := dispatchReportsAndNeverMutatesPartially i s u h
  exact hphase ▸ ite_eq_or_eq _ _ _

/-! ### The transmit stream and the queue -/

/-- Settles O41: of all actions and rules, only the rule of EMIT writes the stream. -/
theorem onlyEmitTransmits : Obligations.OnlyEmitTransmits := by
  unfold Obligations.OnlyEmitTransmits
  intro s t h
  cases acts_of_step h with
  | engine hfires =>
    cases hfires with
    | @emit body hp hread hroom =>
      obtain ⟨-, hlen, -⟩ := (readBuf_ok_iff _ _ _).1 hread
      exact .inr ⟨hp, rfl, body, rfl, hlen⟩
    | dispatch _ _ _ hexec =>
      obtain ⟨-, ⟨-, -, -, -, -, -, -, htx, -⟩, -⟩ := dispatchReportsAndNeverMutatesPartially _ _ _ hexec
      exact .inl htx
    | _ => exact .inl rfl
  | host =>
    obtain ⟨-, -, -, -, htx, -⟩ := hostOp_frame _ (begun s _)
    exact .inl htx
  | receive => exact .inl (lineAppend_tx _ _)
  | _ => exact .inl rfl

/-- Settles O43: the rules that take a byte are those of DRAIN and RECV. -/
theorem onlyDrainAndRecvRemoveBytes : Obligations.OnlyDrainAndRecvRemoveBytes := by
  unfold Obligations.OnlyDrainAndRecvRemoveBytes
  intro s t h
  have kept {q : List Byte} (hq : q = s.rxq) : ∃ new, q = s.rxq ++ new := ⟨[], by rw [hq, List.append_nil]⟩
  cases acts_of_step h with
  | engine hfires =>
    cases hfires with
    | discard hp hq => exact .inr ⟨.inl hp, _, hq⟩
    | byte hp _ hq => exact .inr ⟨.inr hp, _, hq⟩
    | dispatch _ _ _ hexec =>
      obtain ⟨-, ⟨-, -, -, -, -, -, hrxq, -⟩, -⟩ := dispatchReportsAndNeverMutatesPartially _ _ _ hexec
      exact .inl (kept hrxq)
    | _ => exact .inl (kept rfl)
  | host =>
    obtain ⟨-, -, -, hrxq, -⟩ := hostOp_frame _ (begun s _)
    exact .inl (kept hrxq)
  | receive =>
    obtain ⟨new, hnew⟩ := lineAppend_rxq_prefix _ (begun s _)
    exact .inl ⟨new, hnew.symm⟩
  | _ => exact .inl (kept rfl)

/-! ### The clock -/

/-- R7: the clock advances past an enabled rule only while that may wait. -/
theorem waited_lt_of_mayTick {s : State} (hmay : mayTick s = true) (hrule : enabledRule s ≠ none) :
    s.waited < s.par.stepLatency := by
  simpa [mayTick, hrule] using hmay

/-- R186: no agent but the clock changes the time. -/
theorem step_now_cases {s t : State} (h : step s = .next t) :
    t.now = s.now ∨ mayTick s = true ∧ t.now = wrapTime s.par (s.now + 1) := by
  cases acts_of_step h with
  | engine hfires =>
    obtain ⟨-, -, hnow, -⟩ := hfires.frame
    exact .inl hnow
  | tick rest hmay => exact .inr ⟨hmay, rfl⟩
  | host =>
    obtain ⟨-, -, -, -, -, -, hnow, -⟩ := hostOp_frame _ (begun s _)
    exact .inl hnow
  | receive => exact .inl (lineAppend_now _ _)
  | _ => exact .inl rfl

/-- R18: the unbounded counter does not wrap. -/
theorem wrapTime_of_unbounded {p : Config.Params} (h : p.timeW = none) (n : Nat) : wrapTime p n = n := by
  simp only [wrapTime, h]

/-- Settles O44, by whether the step is a tick. -/
theorem clockWaitsForEnabledSteps : Obligations.ClockWaitsForEnabledSteps := by
  unfold Obligations.ClockWaitsForEnabledSteps
  intro s t h
  rcases step_now_cases h with hnow | ⟨hmay, hnow⟩
  · exact ⟨fun _ _ => hnow, fun _ => by omega⟩
  · refine ⟨fun hrule hwaited => absurd (waited_lt_of_mayTick hmay hrule) (Nat.not_lt.2 hwaited), fun hunbounded => ?_⟩
    rw [hnow, wrapTime_of_unbounded hunbounded]
    omega

/-! ### Phases, configuration and regions -/

/-- Settles O48: each rule takes its edge of the graph, and an accepted INIT takes the two into DRAIN. -/
theorem phaseChangesFollowTheGraph : Obligations.PhaseChangesFollowTheGraph := by
  unfold Obligations.PhaseChangesFollowTheGraph
  intro s t h
  cases acts_of_step h with
  | engine hfires =>
    cases hfires with
    | discard | byte => exact .inl rfl
    | dispatch hp _ _ hexec =>
      have hp : s.phase = .dispatch := hp
      refine .inr (.inl ?_)
      rcases exec_phase hexec with e | e
      · rw [hp, rearm_phase, e]
        rfl
      · rw [hp, rearm_phase, e]
        rfl
    | drained hp | start hp | received hp | silence hp | reject hp | accept hp | emit hp | flushed hp =>
      exact .inr (.inl (by rw [show s.phase = _ from hp]; rfl))
  | receive => exact .inl (lineAppend_phase _ _)
  | host =>
    rcases hostOp_phase_cases _ (begun s _) with e | ⟨e, hp | hp, -⟩
    · exact .inl e
    · exact .inr (.inl (by rw [show s.phase = _ from hp, settle_phase, e]; rfl))
    · exact .inr (.inl (by rw [show s.phase = _ from hp, settle_phase, e]; rfl))
  | reset hscript => exact .inr (.inr ⟨rfl, _, hscript⟩)
  | _ => exact .inl rfl

/-- Settles O49: no rule of the engine, no byte and no tick writes a configuration register. -/
theorem wireCannotChangeConfiguration : Obligations.WireCannotChangeConfiguration := by
  unfold Obligations.WireCannotChangeConfiguration
  intro s t h hhost hreset
  cases acts_of_step h with
  | engine hfires =>
    obtain ⟨-, hconf, -⟩ := hfires.frame
    exact hconf
  | receive => exact lineAppend_conf _ _
  | host hscript => exact absurd hscript (hhost _ _)
  | reset hscript => exact absurd hscript (hreset _)
  | _ => rfl

/-- R141: a dispatch changes no discrete input and no input register. -/
theorem exec_keeps_inputs {i : Instr} {s u : State} (h : exec i s = .next u) :
    u.store.di = s.store.di ∧ u.store.ir = s.store.ir := by
  rcases exec_next_forms h with ⟨c, -, rfl⟩ | ⟨data, -, rfl⟩ | ⟨store, -, ⟨hdi, hir, -⟩, rfl⟩
  · exact ⟨rfl, rfl⟩
  · exact ⟨rfl, rfl⟩
  · exact ⟨hdi, hir⟩

/-- Settles O50: of the rules, only that of DISPATCH writes regions. -/
theorem engineWritesOnlyCoilsAndHoldingRegistersInDispatch :
    Obligations.EngineWritesOnlyCoilsAndHoldingRegistersInDispatch := by
  unfold Obligations.EngineWritesOnlyCoilsAndHoldingRegistersInDispatch
  intro s t h hhost
  have same {store : Store} (hstore : store = s.store) :
      store.di = s.store.di ∧ store.ir = s.store.ir ∧ (s.phase ≠ .dispatch → store = s.store) :=
    ⟨by rw [hstore], by rw [hstore], fun _ => hstore⟩
  cases acts_of_step h with
  | engine hfires =>
    cases hfires with
    | dispatch hp _ _ hexec =>
      obtain ⟨hdi, hir⟩ := exec_keeps_inputs hexec
      exact ⟨hdi, hir, fun hne => absurd hp hne⟩
    | _ => exact same rfl
  | receive => exact same (lineAppend_store _ _)
  | host hscript => exact absurd hscript (hhost _ _)
  | _ => exact same rfl

/-! ### The result port -/

/-- R166: a step reports a rejection, reports a dispatch, or ends the event of the step before, if it is no reset. -/
theorem step_res_cases {s t : State} (h : step s = .next t) :
    (s.phase = .validate ∧ t.phase = .idle ∧ t.res = ⟨0#8, 0#3, 0#16, 0#16, true⟩) ∨
    (s.phase = .dispatch ∧ (t.phase = .idle ∨ t.phase = .emit) ∧
      t.res = ⟨t.req.fc, t.exc, t.req.start, t.req.qty, true⟩) ∨
    (t.res = { s.res with valid := false } ∧ (s.phase = .validate → t.phase ≠ .idle) ∧
      (s.phase = .dispatch → t.phase = .dispatch)) ∨
    (t.res = .reset ∧ t.phase = .unconf ∧ ∃ rest, s.script = .reset :: rest) := by
  have stays {p : Phase} {r : ResRegs} (hp : p = s.phase) (hr : r = { s.res with valid := false }) :
      r = { s.res with valid := false } ∧ (s.phase = .validate → p ≠ .idle) ∧ (s.phase = .dispatch → p = .dispatch) :=
    ⟨hr, fun hv => by simp [hp, hv], fun hd => hp.trans hd⟩
  cases acts_of_step h with
  | engine hfires =>
    cases hfires with
    | reject hp => exact .inl ⟨hp, rfl, rfl⟩
    | dispatch hp _ _ hexec =>
      obtain ⟨⟨hreq, -, hres, -⟩, -⟩ := dispatchReportsAndNeverMutatesPartially _ _ _ hexec
      exact .inr (.inl ⟨hp, (exec_phase hexec :), by rw [rearm_res, rearm_req, rearm_exc, hres, hreq]⟩)
    | discard | byte => exact .inr (.inr (.inl (stays rfl rfl)))
    | drained hp | start hp | received hp | silence hp | accept hp | emit hp | flushed hp =>
      have hp : s.phase = _ := hp
      exact .inr (.inr (.inl ⟨rfl, by simp [hp], by simp [hp]⟩))
  | receive => exact .inr (.inr (.inl (stays (lineAppend_phase _ _) (lineAppend_res _ _))))
  | host =>
    obtain ⟨-, -, hres, -⟩ := hostOp_frame _ (begun s _)
    rcases hostOp_phase_cases _ (begun s _) with e | ⟨-, hp | hp, -⟩
    · exact .inr (.inr (.inl (stays e hres)))
    all_goals
      have hp : s.phase = _ := hp
      exact .inr (.inr (.inl ⟨hres, by simp [hp], by simp [hp]⟩))
  | reset hscript => exact .inr (.inr (.inr ⟨rfl, rfl, _, hscript⟩))
  | _ => exact .inr (.inr (.inl (stays rfl rfl)))

/-- Settles O51, by the four things a step can do to the result registers. -/
theorem outcomeOccursOncePerExchange : Obligations.OutcomeOccursOncePerExchange := by
  unfold Obligations.OutcomeOccursOncePerExchange
  intro s t h
  rcases step_res_cases h with ⟨hs, ht, hres⟩ | ⟨hs, ht, hres⟩ | ⟨hres, hvalidate, hdispatch⟩ | ⟨hres, ht, hreset⟩
  · simp [hs, ht, hres]
  · have hleft : t.phase ≠ .dispatch := by rcases ht with e | e <;> simp [e]
    simp [hs, hleft, hres]
  · exact ⟨by simp [hres], fun _ => .inl hres, fun hs ht => absurd ht (hvalidate hs), fun hs ht => absurd (hdispatch hs) ht⟩
  · exact ⟨by simp [hres, ResRegs.reset], fun _ => .inr ⟨hres, hreset⟩, by simp [ht], fun _ _ hne => absurd ht hne⟩

/-! ### The end of the drain -/

/-- R93: in DRAIN a byte is discarded and the timer restarts, or the quiet line ends the drain. -/
theorem Fires.of_drain {s u : State} (h : Fires s u) (hs : s.phase = .drain) :
    (∃ q, u = { s with rxq := q, tMark := s.now }) ∨
    (s.rxq = [] ∧ s.conf.frameTimeout.toNat ≤ elapsed s ∧ u = drainQuiet s) := by
  cases h with
  | discard => exact .inl ⟨_, rfl⟩
  | drained _ hq htime => exact .inr ⟨hq, htime, rfl⟩
  | byte hp | dispatch hp | start hp | received hp | silence hp | reject hp | accept hp | emit hp | flushed hp =>
    exact absurd (hs.symm.trans hp) nofun

/-- R93: DRAIN is left for IDLE by its own rule alone. -/
theorem drain_to_idle {s t : State} (h : step s = .next t) (hs : s.phase = .drain) (ht : t.phase = .idle) :
    s.rxq = [] ∧ s.conf.frameTimeout.toNat ≤ elapsed s ∧ t.now = s.now := by
  have ne {p : Phase} (hp : p = s.phase) : p ≠ .idle := by simp [hp, hs]
  cases acts_of_step h with
  | engine hfires =>
    rcases hfires.of_drain hs with ⟨q, rfl⟩ | ⟨hq, htime, rfl⟩
    · exact absurd ht (ne rfl)
    · exact ⟨hq, htime, rfl⟩
  | receive => exact absurd ht (ne (lineAppend_phase _ _))
  | host =>
    rcases hostOp_phase_cases _ (begun s _) with e | ⟨-, hp | hp, -⟩
    · exact absurd ht (ne e)
    all_goals exact absurd (hs.symm.trans hp) (by simp)
  | reset => simp at ht
  | _ => exact absurd ht (ne rfl)

/-- R93: where DRAIN has no enabled rule, `frame_timeout` has not elapsed. -/
theorem elapsed_lt_of_drain_waits {s : State} (hs : s.phase = .drain) (h : enabledRule s = none) :
    elapsed s < s.conf.frameTimeout.toNat := by
  rw [enabledRule_drain hs] at h
  split_ifs at h with hq htime
  exact Nat.not_le.1 htime

/-- R18: the unbounded timer. -/
theorem elapsed_of_unbounded {s : State} (h : s.par.timeW = none) : elapsed s = s.now - s.tMark := by
  simp only [elapsed, h]

/-- R7, R93: without latency the clock never passes the end of the drain while DRAIN lasts. -/
theorem drain_never_late {s t : State} (h : step s = .next t) (hs : s.phase = .drain) (ht : t.phase = .drain)
    (hunbounded : s.par.timeW = none) (hlatency : s.par.stepLatency = 0)
    (hnow : s.now ≤ s.tMark + s.conf.frameTimeout.toNat) : t.now ≤ t.tMark + t.conf.frameTimeout.toNat := by
  cases acts_of_step h with
  | engine hfires =>
    rcases hfires.of_drain hs with ⟨q, rfl⟩ | ⟨-, -, rfl⟩
    · exact Nat.le_add_right _ _
    · simp at ht
  | tick rest hmay =>
    have hwaits : enabledRule s = none := by
      by_contra hrule
      exact absurd (waited_lt_of_mayTick hmay hrule) (by omega)
    have hearly := elapsed_lt_of_drain_waits hs hwaits
    rw [elapsed_of_unbounded hunbounded] at hearly
    have hnext : (tick (begun s rest)).now = s.now + 1 := wrapTime_of_unbounded hunbounded _
    rw [hnext, tick_tMark, tick_conf, begun_tMark, begun_conf]
    omega
  | receive => simpa using hnow
  | @host op rest hscript =>
    rcases hostOp_forms op (begun s rest) with ⟨hp | hp, -⟩ | ⟨conf, store, e, htimeout⟩
    · exact absurd (hs.symm.trans hp) (by simp)
    · exact absurd (hs.symm.trans hp) (by simp)
    · rw [settle_now, settle_tMark, settle_conf, e]
      simpa [htimeout] using hnow
  | reset => simp at ht
  | _ => exact hnow

/-- Settles O56: when DRAIN is left, and how late it can be. -/
theorem quietDrainEndsExactlyAtFrameTimeout : Obligations.QuietDrainEndsExactlyAtFrameTimeout := by
  unfold Obligations.QuietDrainEndsExactlyAtFrameTimeout
  intro s t h hs
  exact ⟨drain_to_idle h hs, drain_never_late h hs⟩

end Sys2Proof.Machine
end

section
/-! The invariant: it holds at reset and every step of every agent keeps it. -/

namespace Sys2Proof.Machine

/-! ### Written bytes -/

/-- A group write that begins where the written bytes end extends them. -/
theorem Written.writeN {m : List Host.Cell} {a : Nat} (h : Written m a) (bytes : List Byte) :
    Written (Memory.writeN m a bytes) (a + bytes.length) := by
  intro k hk
  rcases Nat.lt_or_ge k a with hlt | hge
  · rw [Memory.read_writeN_out m (.inl hlt)]
    exact h k hlt
  · rw [Memory.read_writeN_in m hge hk]
    simp
    omega

theorem Written.mono {m : List Host.Cell} {a b : Nat} (h : Written m b) (hle : a ≤ b) : Written m a :=
  fun k hk => h k (hk.trans_le hle)

/-- A readable buffer has been written. -/
theorem written_of_readBuf {s : State} {n : Nat} {bytes : List Byte} (h : readBuf s n = .ok bytes) : Written s.buf n := by
  obtain ⟨-, hlen, hread⟩ := (readBuf_ok_iff s n bytes).1 h
  intro k hk
  rw [hread k hk]
  simp [hlen, hk]

/-- A group write below index 256 keeps the buffer's range (R36). -/
theorem bufRange_writeN {m : List Host.Cell} (h : ∀ a ∈ m.map Prod.fst, a < 256) {a : Nat} {bytes : List Byte}
    (hfit : a + bytes.length ≤ 256) : ∀ k ∈ (Memory.writeN m a bytes).map Prod.fst, k < 256 := by
  intro k hk
  rcases (Memory.mem_index_writeN m a bytes k).1 hk with ⟨-, hlt⟩ | hold
  · omega
  · exact h k hold

/-! ### Accepted frames -/

/-- R57: a request of legal shape has the payload of its format. -/
theorem payload_length_of_legalShape {i : Instr} (h : i.legalShape) : 4 ≤ i.payload.length := by
  cases i with
  | illegal id fc p => exact h.elim
  | rc id b | rdi id b | rhr id b | rir id b | wsc id b | wsr id b =>
    cases b with
    | fit f1 f2 => exact le_rfl
    | misfit p => exact h.elim
  | wmc id b | wmr id b =>
    cases b with
    | fit st q data => simp [Instr.payload, encodeQM]
    | misfit p => exact h.elim

/-- What a decoded frame is to its request: its address byte, a payload of at least the legal size, and well-formedness. -/
theorem decoded_frame {frame : List Byte} {i : Instr} (h : decode frame = .ok i) :
    frame[0]? = some i.id ∧ 4 ≤ frame.length ∧ (requestShape i = true → 6 ≤ frame.length) := by
  obtain ⟨id, fc, p, c1, c2, rfl, rfl, hlen⟩ := decode_cases h
  obtain ⟨hid, -, hpayload⟩ := decodeBody_parts id fc p
  refine ⟨by simp [hid], by simp, fun hshape => ?_⟩
  have hlegal := payload_length_of_legalShape ((requestShape_iff _ (decodeBody_wf id fc hlen)).1 hshape)
  rw [hpayload] at hlegal
  simp
  omega

/-! ### The invariant under the other agents -/

/-- The invariant reads nothing of the transport, the script and the event; of the clock and the wait it reads two bounds. -/
theorem Inv.outside {s : State} (h : Inv s) (valid : Bool) (rxq tx : List Byte) (txBusy : Bool) {now waited : Nat}
    (script : List Action) (hnow : s.par.timeW = none → s.now ≤ now) (hwaited : waited ≤ s.par.stepLatency) :
    Inv { s with
      res := { s.res with valid := valid }, rxq := rxq, tx := tx, txBusy := txBusy, now := now, script := script,
      waited := waited } :=
  { h with
    latency := hwaited
    timeForward := fun hp hw => (h.timeForward hp hw).trans (hnow hw) }

/-- A step begins in a state that meets the invariant. -/
theorem Inv.begun {s : State} (h : Inv s) (rest : List Action) : Inv (begun s rest) :=
  h.outside false s.rxq s.tx s.txBusy rest (fun _ => le_rfl) h.latency

/-- Nothing has waited after a step of the engine. -/
theorem Inv.rearm {s : State} (h : Inv s) : Inv (rearm s) :=
  h.outside s.res.valid s.rxq s.tx s.txBusy s.script (fun _ => le_rfl) (Nat.zero_le _)

/-- A settled wait is no longer than it was. -/
theorem Inv.settle {s t : State} (h : Inv t) : Inv (settle s t) := by
  refine h.outside t.res.valid t.rxq t.tx t.txBusy t.script (fun _ => le_rfl) ?_
  split
  · exact h.latency
  · exact Nat.zero_le _

/-- R7, R186: a tick advances the clock, and a wait only below `STEP_LATENCY`. -/
theorem Inv.tick {s : State} (h : Inv s) (hmay : mayTick s = true) : Inv (tick s) := by
  have hwaited : (if (enabledRule s).isSome then s.waited + 1 else 0) ≤ s.par.stepLatency := by
    cases hrule : enabledRule s with
    | none => exact Nat.zero_le _
    | some r => exact waited_lt_of_mayTick hmay (by simp [hrule])
  exact (h.outside s.res.valid s.rxq s.tx s.txBusy s.script
    (fun hw => by rw [advance_now, wrapTime_of_unbounded hw]; omega) hwaited).settle

/-- A reset engine meets the invariant, whatever the host's arrays hold in canonical form (R26, R190). -/
theorem inv_engineReset {s : State}
    (h : Memory.wf s.store.coils ∧ Memory.wf s.store.di ∧ Memory.wf s.store.hr ∧ Memory.wf s.store.ir) :
    Inv (engineReset s) where
  memWf := ⟨List.Pairwise.nil, h⟩
  bufRange := by simp
  lenLe := Nat.zero_le _
  address := nofun
  timeouts := fun hp => absurd rfl hp
  excLegal := ⟨Nat.zero_le _, Nat.zero_le _⟩
  unconfigured := fun sp _ => by cases sp <;> rfl
  txEnable := ⟨nofun, nofun⟩
  received := nofun
  accepted := nofun
  response := nofun
  latency := Nat.zero_le _
  timeForward := nofun

/-- Settles O52: State.reset is a reset engine, with empty arrays. -/
theorem invariantHoldsAtReset : Obligations.InvariantHoldsAtReset :=
  inv_engineReset (s := State.reset) ⟨List.Pairwise.nil, List.Pairwise.nil, List.Pairwise.nil, List.Pairwise.nil⟩

/-! ### The invariant under the host -/

/-- The host may bind and write its arrays, and size a region, as long as a region it never configured has length 0. -/
theorem Inv.withRegions {s : State} (h : Inv s) {coils di hr ir : Descriptor} {store : Store}
    (hcoils : coils.cfg = false → coils.len = 0#16) (hdi : di.cfg = false → di.len = 0#16)
    (hhr : hr.cfg = false → hr.len = 0#16) (hir : ir.cfg = false → ir.len = 0#16)
    (hwf : Memory.wf store.coils ∧ Memory.wf store.di ∧ Memory.wf store.hr ∧ Memory.wf store.ir) :
    Inv { s with conf := { s.conf with coils := coils, di := di, hr := hr, ir := ir }, store := store } :=
  { h with
    memWf := ⟨h.memWf.1, hwf⟩
    unconfigured := fun sp => match sp with
      | .coils => hcoils
      | .di => hdi
      | .hr => hhr
      | .ir => hir }

/-- `tx_en` is 0 outside FLUSH (R157). -/
theorem Inv.txEn_eq_false {s : State} (h : Inv s) (hp : s.phase ≠ .flush) : s.txEn = false :=
  Bool.eq_false_iff.2 (mt h.txEnable.1 hp)

/-- R159: an accepted INIT meets the invariant. -/
theorem Inv.init {s : State} (h : Inv s) (hphase : s.phase = .unconf ∨ s.phase = .idle) (id : Byte) {baud : BitVec 32}
    (hbaud : 0 < baud.toNat) (parity : Parity) (stop2 : Bool) :
    Inv (startDrain (setTimeouts baud parity stop2 (assignAddress id s))) := by
  obtain ⟨a, f, hassign, haddress⟩ := assignAddress_eq id s
  obtain ⟨hchar, hframe⟩ := setTimeouts_toNat baud parity stop2 (assignAddress id s) hbaud
  obtain ⟨hordered, -⟩ := charTimeoutBelowFrameTimeout baud.toNat parity stop2 hbaud baud.isLt
  rw [← hchar, ← hframe] at hordered
  rw [hassign] at hordered ⊢
  have hflush : s.phase ≠ .flush := by rcases hphase with e | e <;> simp [e]
  exact {
    memWf := h.memWf
    bufRange := h.bufRange
    lenLe := h.lenLe
    address := fun hassigned => by
      have hrange := of_decide_eq_true hassigned
      exact (haddress hrange).symm ▸ hrange
    timeouts := fun _ => hordered
    excLegal := h.excLegal
    unconfigured := h.unconfigured
    txEnable := by simp [h.txEn_eq_false hflush]
    received := nofun
    accepted := nofun
    response := nofun
    latency := h.latency
    timeForward := fun _ _ => le_rfl }

/-- Every host operation keeps the invariant. -/
theorem Inv.hostOp {s : State} (h : Inv s) (op : HostOp) : Inv (hostOp op s) := by
  obtain ⟨-, hcoils, hdi, hhr, hir⟩ := h.memWf
  have dcoils := h.unconfigured .coils
  have ddi := h.unconfigured .di
  have dhr := h.unconfigured .hr
  have dir := h.unconfigured .ir
  cases op with
  | init id baud parity stop2 =>
    rw [Machine.hostOp, hostInit]
    split
    · rename_i hready
      rw [Bool.and_eq_true, hostReady_iff, decide_eq_true_eq] at hready
      exact h.init hready.1 id hready.2 parity stop2
    · exact h
  | cfgCoils length cells =>
    rw [Machine.hostOp, hostCfgCoils]
    split
    · exact h.withRegions nofun ddi dhr dir ⟨Memory.ofArray_wf cells, hdi, hhr, hir⟩
    · exact h
  | cfgDi length cells =>
    rw [Machine.hostOp, hostCfgDi]
    split
    · exact h.withRegions dcoils nofun dhr dir ⟨hcoils, Memory.ofArray_wf cells, hhr, hir⟩
    · exact h
  | cfgHr length cells =>
    rw [Machine.hostOp, hostCfgHr]
    split
    · exact h.withRegions dcoils ddi nofun dir ⟨hcoils, hdi, Memory.ofArray_wf cells, hir⟩
    · exact h
  | cfgIr length cells =>
    rw [Machine.hostOp, hostCfgIr]
    split
    · exact h.withRegions dcoils ddi dhr nofun ⟨hcoils, hdi, hhr, Memory.ofArray_wf cells⟩
    · exact h
  | writeCoil a v => exact h.withRegions dcoils ddi dhr dir ⟨Memory.write_wf hcoils _ _, hdi, hhr, hir⟩
  | writeDi a v => exact h.withRegions dcoils ddi dhr dir ⟨hcoils, Memory.write_wf hdi _ _, hhr, hir⟩
  | writeHr a v => exact h.withRegions dcoils ddi dhr dir ⟨hcoils, hdi, Memory.write_wf hhr _ _, hir⟩
  | writeIr a v => exact h.withRegions dcoils ddi dhr dir ⟨hcoils, hdi, hhr, Memory.write_wf hir _ _⟩
  | readCell sp a => exact h

/-! ### The invariant under the engine -/

/-- A phase may be entered that is not FLUSH, with what it needs. -/
theorem Inv.toPhase {s : State} (h : Inv s) {p : Phase} (hunconf : s.phase ≠ .unconf) (hflush : s.phase ≠ .flush)
    (hp : p ≠ .flush) (hreceived : p.holdsFrame = true → Written s.buf s.len.toNat)
    (haccepted : p = .dispatch → s.quietOk = true ∧ 4 ≤ s.len.toNat ∧
      ∃ frame, readBuf s s.len.toNat = .ok frame ∧ frameMatches s frame = true)
    (hresponse : p = .emit → 3 ≤ s.respLen.toNat ∧ s.respLen.toNat ≤ 253 ∧ Written s.buf s.respLen.toNat ∧
      s.req.id ≠ 0#8 ∧ Memory.read s.buf 0 = some s.req.id)
    (htime : p.readsTimer = true → s.par.timeW = none → s.tMark ≤ s.now) : Inv { s with phase := p } :=
  { h with
    timeouts := fun _ => h.timeouts hunconf
    txEnable := by simp [h.txEn_eq_false hflush, hp]
    received := hreceived
    accepted := haccepted
    response := hresponse
    timeForward := htime }

/-- What a response needs in EMIT: the dispatch wrote all of it that the frame did not (R58, R59, R147, R178). -/
theorem response_written {s u : State} {i : Instr} {frame : List Byte}
    (hread : readBuf s s.len.toNat = .ok frame) (hdecode : decode frame = .ok i) (hexec : exec i s = .next u) :
    Written u.buf u.respLen.toNat ∧ Memory.read u.buf 0 = some i.id := by
  obtain ⟨-, hlen, hbytes⟩ := (readBuf_ok_iff _ _ _).1 hread
  obtain ⟨hid, hfour, hsix⟩ := decoded_frame hdecode
  have hframe := written_of_readBuf hread
  obtain ⟨-, -, -, -, hheader, -⟩ := dispatchReportsAndNeverMutatesPartially i s u hexec
  refine ⟨?_, by rw [hheader, hbytes 0 (by omega), hid]⟩
  rcases exec_next_forms hexec with ⟨c, -, rfl⟩ | ⟨data, hdata, rfl⟩ | ⟨store, hshape, -, rfl⟩
  · exact (hframe.mono (show 1 ≤ s.len.toNat by omega)).writeN [i.fc ||| 0x80#8, c.code.setWidth 8]
  · rw [completedRead_respLen i s hdata, completedRead_buf]
    have hwritten := (hframe.mono (show 2 ≤ s.len.toNat by omega)).writeN (BitVec.ofNat 8 data.length :: data)
    exact hwritten.mono (by simp only [List.length_cons]; omega)
  · exact hframe.mono (hlen ▸ hsix hshape)

/-- A dispatch keeps the buffer and the regions canonical, and the buffer in its range. -/
theorem Inv.exec_memory {s u : State} {i : Instr} (h : Inv s) (hexec : exec i s = .next u) :
    u.memWf ∧ ∀ a ∈ u.buf.map Prod.fst, a < 256 := by
  obtain ⟨hbuf, hcoils, hdi, hhr, hir⟩ := h.memWf
  rcases exec_next_forms hexec with ⟨c, -, rfl⟩ | ⟨data, hdata, rfl⟩ | ⟨store, -, ⟨edi, eir, wcoils, whr⟩, rfl⟩
  · exact ⟨⟨Memory.writeN_wf hbuf _ _, hcoils, hdi, hhr, hir⟩, bufRange_writeN h.bufRange (by simp)⟩
  · exact ⟨⟨Memory.writeN_wf hbuf _ _, hcoils, hdi, hhr, hir⟩,
      bufRange_writeN h.bufRange (by simp only [List.length_cons]; omega)⟩
  · exact ⟨⟨hbuf, wcoils hcoils, edi ▸ hdi, whr hhr, eir ▸ hir⟩, h.bufRange⟩

/-- R110 to R124: a dispatch keeps the invariant. -/
theorem Inv.dispatch {s u : State} {i : Instr} {frame : List Byte} (h : Inv s) (hp : s.phase = .dispatch)
    (hread : readBuf s s.len.toNat = .ok frame) (hdecode : decode frame = .ok i) (hexec : exec i s = .next u) : Inv u := by
  obtain ⟨⟨hreq, hexc, hres, hphase⟩, ⟨hpar, hlen, hconf, -, -, htxEn, -, -, -, -, -, hwaited, -⟩, hexcLe, -⟩ :=
    dispatchReportsAndNeverMutatesPartially i s u hexec
  obtain ⟨hmin, hmax⟩ := responseBodyFitsTheBuffer i s u hexec
  obtain ⟨hwritten, hheader⟩ := response_written hread hdecode hexec
  obtain ⟨hmem, hrange⟩ := h.exec_memory hexec
  have hnot {p : Phase} (hidle : p ≠ .idle) (hemit : p ≠ .emit) : u.phase ≠ p := by
    rcases exec_phase hexec with e | e <;> rw [e]
    · exact hidle.symm
    · exact hemit.symm
  exact {
    memWf := hmem
    bufRange := hrange
    lenLe := hlen ▸ h.lenLe
    address := hconf ▸ h.address
    timeouts := fun _ => hconf ▸ h.timeouts (by simp [hp])
    excLegal := ⟨hexcLe, by rw [hres]; exact hexcLe⟩
    unconfigured := fun sp => descriptor_congr hconf sp ▸ h.unconfigured sp
    txEnable := by
      rw [htxEn, h.txEn_eq_false (by simp [hp])]
      exact ⟨nofun, fun e => absurd e (hnot nofun nofun)⟩
    received := fun hholds => by rcases exec_phase hexec with e | e <;> simp [e, Phase.holdsFrame] at hholds
    accepted := fun e => absurd e (hnot nofun nofun)
    response := fun hemit => by
      refine ⟨hmin, hmax, hwritten, ?_, by rw [hheader, hreq]⟩
      rw [hreq]
      intro hbroadcast
      rw [hphase, if_pos hbroadcast] at hemit
      cases hemit
    latency := by rw [hwaited, hpar]; exact h.latency
    timeForward := fun htimer => by rcases exec_phase hexec with e | e <;> simp [e, Phase.readsTimer] at htimer }

/-- Every rule of the engine keeps the invariant. -/
theorem Fires.inv {s u : State} (hfires : Fires s u) (h : Inv s) : Inv u := by
  cases hfires with
  | discard hp hq => exact { h with timeForward := fun _ _ => le_rfl }
  | drained hp hq htime => exact h.toPhase (by simp [hp]) (by simp [hp]) nofun nofun nofun nofun nofun
  | start hp =>
    have hfresh : Inv { s with len := 0#9, tMark := s.now } :=
      { h with
        lenLe := Nat.zero_le _
        received := fun _ k hk => absurd hk (Nat.not_lt_zero k)
        accepted := fun e => by simp [hp] at e
        timeForward := fun _ _ => le_rfl }
    exact hfresh.toPhase (by simp [hp]) (by simp [hp]) nofun (fun _ k hk => absurd hk (Nat.not_lt_zero k)) nofun nofun
      (fun _ _ => le_rfl)
  | received hp =>
    exact h.toPhase (by simp [hp]) (by simp [hp]) nofun (fun _ => h.received (by simp [hp, Phase.holdsFrame])) nofun nofun
      (fun _ => h.timeForward (by simp [hp, Phase.readsTimer]))
  | @byte b q hp hlen hq =>
    have hnext := toNat_succ_of_lt_capacity hlen
    exact { h with
      memWf := ⟨Memory.write_wf h.memWf.1 _ _, h.memWf.2⟩
      bufRange := bufRange_writeN (bytes := [b]) h.bufRange hlen
      lenLe := by rw [hnext]; exact hlen
      received := fun hholds => by rw [hnext]; exact (h.received hholds).writeN [b]
      accepted := fun e => by simp [hp] at e
      response := fun e => by simp [hp] at e
      timeForward := fun _ _ => le_rfl }
  | silence hp =>
    have hlatched : Inv { s with quietOk := quietFlag s } := { h with accepted := fun e => by simp [hp] at e }
    exact hlatched.toPhase (by simp [hp]) (by simp [hp]) nofun (fun _ => h.received (by simp [hp, Phase.holdsFrame])) nofun
      nofun nofun
  | reject hp =>
    have hreported : Inv (outcome 0#8 0#3 0#16 0#16 s) := { h with excLegal := ⟨h.excLegal.1, Nat.zero_le _⟩ }
    exact hreported.toPhase (by simp [hp]) (by simp [hp]) nofun nofun nofun nofun nofun
  | @accept frame hp hquiet hlen hread hmatch =>
    exact h.toPhase (by simp [hp]) (by simp [hp]) nofun (fun _ => written_of_readBuf hread)
      (fun _ => ⟨hquiet, hlen, frame, hread, hmatch⟩) nofun nofun
  | dispatch hp hread hdecode hexec => exact h.dispatch hp hread hdecode hexec
  | emit hp hread hroom =>
    exact { h with
      memWf := ⟨Memory.writeN_wf h.memWf.1 _ _, h.memWf.2⟩
      bufRange := bufRange_writeN h.bufRange hroom
      timeouts := fun _ => h.timeouts (by simp [hp])
      txEnable := ⟨fun _ => rfl, fun _ => rfl⟩
      received := nofun
      accepted := nofun
      response := nofun
      timeForward := nofun }
  | flushed hp =>
    exact { h with
      timeouts := fun _ => h.timeouts (by simp [hp])
      txEnable := ⟨nofun, nofun⟩
      received := nofun
      accepted := nofun
      response := nofun
      timeForward := fun _ _ => le_rfl }

/-- Settles O53: every action of every agent keeps the invariant. -/
theorem everyStepKeepsTheInvariant : Obligations.EveryStepKeepsTheInvariant := by
  unfold Obligations.EveryStepKeepsTheInvariant
  intro s t h hstep
  cases acts_of_step hstep with
  | @engine rest u hfires => exact (hfires.inv (h.begun rest)).rearm
  | pass rest => exact h.begun rest
  | tick rest hmay => exact (h.begun rest).tick hmay
  | @receive b rest hscript =>
    rw [lineAppend_eq]
    exact ((h.begun rest).outside false _ s.tx s.txBusy rest (fun _ => le_rfl) h.latency).settle
  | @txDone rest hscript =>
    exact (h.outside false s.rxq s.tx false rest (fun _ => le_rfl) h.latency).settle
  | @host op rest hscript => exact ((h.begun rest).hostOp op).settle
  | @reset rest hscript => exact inv_engineReset (s := begun s rest) h.memWf.2

end Sys2Proof.Machine
end

section
/-! Stops: the steps that cannot stop, and what the invariant says of the others. -/

namespace Sys2Proof.Machine

/-! ### Steps without a rule -/

section
variable {s : State} {rest : List Action}

/-- The empty script lets time pass where no rule is enabled (log 5). -/
theorem step_of_empty_script (hscript : s.script = []) (hrule : enabledRule s = none) :
    step s = .next (tick (begun s [])) := by
  have hrule' : enabledRule (clearEvent s) = none := hrule
  have hbegun : clearEvent s = begun s [] := by rw [begun, ← hscript]; rfl
  simp only [step, agentsStep, agentsAct, clearEvent_script, hscript, hrule', Option.isSome_none, Bool.false_eq_true, if_false]
  rw [hbegun]

/-- An engine's turn passes where no rule is enabled. -/
theorem step_of_idle_engine (hscript : s.script = .engine :: rest) (hrule : enabledRule s = none) :
    step s = .next (begun s rest) := by
  have hrule' : enabledRule (begun s rest) = none := hrule
  simp only [step, agentsStep, agentsAct, clearEvent_script, hscript]
  change engineStep (begun s rest) = _
  simp only [engineStep, hrule']

/-- A wait that is over is taken from the script. -/
theorem step_of_wait_zero (hscript : s.script = .wait 0 :: rest) : step s = .next (begun s rest) := by
  simp only [step, agentsStep, agentsAct, clearEvent_script, hscript]
  rfl

/-- A wait goes on for one microsecond where the clock may advance. -/
theorem step_of_wait_tick {n : Nat} (hscript : s.script = .wait (n + 1) :: rest) (hmay : mayTick s = true) :
    step s = .next (tick (begun s (.wait n :: rest))) := by
  have hmay' : mayTick (clearEvent s) = true := hmay
  simp only [step, agentsStep, agentsAct, clearEvent_script, hscript, hmay', if_true]
  rfl

end

/-- A step answers a next state unless it is the engine's turn and a rule is enabled. -/
theorem step_next_or_turn (s : State) :
    (∃ t, step s = .next t) ∨ ∃ rest r, EngineTurn s rest ∧ enabledRule s = some r := by
  cases hscript : s.script with
  | nil =>
    cases hrule : enabledRule s with
    | none => exact .inl ⟨_, step_of_empty_script hscript hrule⟩
    | some r => exact .inr ⟨[], r, .inr (.inl ⟨hscript, rfl⟩), rfl⟩
  | cons action rest =>
    cases action with
    | engine =>
      cases hrule : enabledRule s with
      | none => exact .inl ⟨_, step_of_idle_engine hscript hrule⟩
      | some r => exact .inr ⟨rest, r, .inl hscript, rfl⟩
    | wait n =>
      cases n with
      | zero => exact .inl ⟨_, step_of_wait_zero hscript⟩
      | succ n =>
        by_cases hmay : mayTick s = true
        · exact .inl ⟨_, step_of_wait_tick hscript hmay⟩
        · have hrule : enabledRule s ≠ none := fun hnone => hmay (by simp [mayTick, hnone])
          obtain ⟨r, hr⟩ := Option.ne_none_iff_exists'.1 hrule
          exact .inr ⟨s.script, r, .inr (.inr ⟨n, rest, hscript, latency_of_not_mayTick hmay, rfl⟩), hr⟩
    | receive b => exact .inl ⟨_, step_of_receive hscript⟩
    | txDone => exact .inl ⟨_, step_of_txDone hscript⟩
    | host op => exact .inl ⟨_, step_of_host hscript⟩
    | reset => exact .inl ⟨_, step_of_reset hscript⟩

/-! ### Rules under the invariant -/

/-- R36, R100: VALIDATE reads only what RECV wrote. -/
theorem Inv.validate_next {s : State} (h : Inv s) (hp : s.phase = .validate) : ∃ u, validateStep s = .next u := by
  obtain ⟨frame, hread⟩ := readBuf_of_written h.lenLe (h.received (by simp [hp, Phase.holdsFrame]))
  by_cases hpass : s.quietOk = true ∧ 4 ≤ s.len.toNat ∧ frameMatches s frame = true
  · obtain ⟨hquiet, hlen, hmatch⟩ := hpass
    exact ⟨_, validateStep_accept hread hquiet hlen hmatch⟩
  · exact ⟨_, validateStep_reject hread hpass⟩

/-- R147: EMIT reads only what DISPATCH wrote, and has room for the CRC. -/
theorem Inv.emit_next {s : State} (h : Inv s) (hp : s.phase = .emit) : ∃ u, emitStep s = .next u := by
  obtain ⟨-, hmax, hwritten, -⟩ := h.response hp
  obtain ⟨body, hread⟩ := readBuf_of_written (by omega) hwritten
  exact ⟨_, emitStep_of_readBuf (by omega) hread⟩

/-- U4: the one stop of DISPATCH. -/
theorem Inv.dispatch_stops_only_on_absent_cell {s : State} (h : Inv s) (hp : s.phase = .dispatch) :
    (∃ u, dispatchStep s = .next u) ∨ dispatchStep s = .fault .cellAbsent := by
  obtain ⟨-, hmin, frame, hread, -⟩ := h.accepted hp
  obtain ⟨hmax, hlen, -⟩ := (readBuf_ok_iff _ _ _).1 hread
  obtain ⟨-, -, hdecodes⟩ := decoderSelectsByFunctionCode frame
  obtain ⟨i, hdecode, -⟩ := hdecodes (by omega) (by omega)
  obtain ⟨hw, -⟩ := encodeOfDecodeIsIdentity frame i hdecode
  have hrun : dispatchStep s = exec i s := by
    simp only [dispatchStep, fetchFrame, hread, hdecode]
  rw [hrun]
  exact (requestStopsOnlyOnUnprovidedCell i s hw).imp_right fun ⟨hfault, _⟩ => hfault

/-- Under the invariant an enabled rule answers a next state, or DISPATCH stops on a cell. -/
theorem Inv.fire_next {s : State} (h : Inv s) {r : Rule} (hr : enabledRule s = some r) :
    (∃ u, fire r s = .next u) ∨ (fire r s = .fault .cellAbsent ∧ s.phase = .dispatch) := by
  have hphase := phase_of_enabledRule hr
  cases r with
  | validate => exact .inl (h.validate_next (by simpa using hphase))
  | emit => exact .inl (h.emit_next (by simpa using hphase))
  | dispatch =>
    have hp : s.phase = .dispatch := by simpa using hphase
    exact (h.dispatch_stops_only_on_absent_cell hp).imp_right fun hfault => ⟨hfault, hp⟩
  | _ => exact .inl ⟨_, rfl⟩

/-- Settles O54: a step stops only with its rule, and under the invariant that is DISPATCH on an absent cell. -/
theorem reachableStepsStopOnlyOnUnprovidedCells : Obligations.ReachableStepsStopOnlyOnUnprovidedCells := by
  unfold Obligations.ReachableStepsStopOnlyOnUnprovidedCells
  intro s h
  rcases step_next_or_turn s with hnext | ⟨rest, r, hturn, hr⟩
  · exact .inl hnext
  · rw [step_of_turn hturn hr]
    rcases (h.begun rest).fire_next (r := r) hr with ⟨u, hu⟩ | ⟨hfault, hp⟩
    · exact .inl ⟨rearm u, by rw [hu]; rfl⟩
    · exact .inr ⟨by rw [hfault]; rfl, hp⟩

/-! ### UNCONF -/

/-- R92: UNCONF has no rule. -/
theorem enabledRule_unconf {s : State} (hp : s.phase = .unconf) : enabledRule s = none := by
  simp only [enabledRule, hp]

/-- R92: in UNCONF no rule fires. -/
theorem Fires.phase_ne_unconf {s u : State} (h : Fires s u) : s.phase ≠ .unconf := by
  cases h with
  | discard hp | drained hp | start hp | received hp | byte hp | silence hp | reject hp | accept hp | dispatch hp | emit hp
  | flushed hp => simp [hp]

/-- Settles O16, by the action of each agent. -/
theorem unconfIsInertUntilInit : Obligations.UnconfIsInertUntilInit := by
  unfold Obligations.UnconfIsInertUntilInit
  intro s h hp
  have htxEn := h.txEn_eq_false (by simp [hp])
  refine ⟨enabledRule_unconf hp, htxEn, fun t hstep => ?_⟩
  cases acts_of_step hstep with
  | engine hfires => exact absurd hp hfires.phase_ne_unconf
  | @receive b rest =>
    exact ⟨by simp, by simp [htxEn], by simp, lineAppend_rxq_prefix b (begun s rest), .inl (by simp [hp])⟩
  | @host op rest hscript =>
    obtain ⟨-, hen, hres, hrxq, htx, -⟩ := hostOp_frame op (begun s rest)
    refine ⟨htx, hen.trans htxEn, by rw [settle_res, hres]; rfl, by rw [settle_rxq, hrxq]; exact List.prefix_rfl, ?_⟩
    rcases hostOp_phase_cases op (begun s rest) with e | ⟨e, -, id, baud, parity, stop2, rfl⟩
    · exact .inl (e.trans hp)
    · exact .inr ⟨e, id, baud, parity, stop2, rest, hscript⟩
  | reset => exact ⟨rfl, rfl, rfl, List.prefix_rfl, .inl rfl⟩
  | _ => exact ⟨rfl, htxEn, rfl, List.prefix_rfl, .inl hp⟩

/-! ### A transmission that never ends -/

/-- R156, R158: the engine transmits: FLUSH, with `tx_busy` and `tx_en`. -/
def Transmitting (s : State) : Prop := s.phase = .flush ∧ s.txBusy = true ∧ s.txEn = true

/-- R158: no action but the end of the transmission and reset ends it, and none transmits. -/
theorem Transmitting.step_keeps {s t : State} (h : Transmitting s) (hstep : step s = .next t)
    (hdone : ∀ rest, s.script ≠ .txDone :: rest) (hreset : ∀ rest, s.script ≠ .reset :: rest) :
    Transmitting t ∧ t.tx = s.tx := by
  obtain ⟨hp, hbusy, hen⟩ := h
  cases acts_of_step hstep with
  | engine hfires =>
    cases hfires with
    | flushed _ hclear => exact absurd (hbusy.symm.trans hclear) nofun
    | discard hp' | drained hp' | start hp' | received hp' | byte hp' | silence hp' | reject hp' | accept hp' | dispatch hp'
    | emit hp' => exact absurd (hp.symm.trans hp') nofun
  | receive => exact ⟨⟨by simp [hp], by simp [hbusy], by simp [hen]⟩, by simp⟩
  | txDone hscript => exact absurd hscript (hdone _)
  | @host op rest =>
    obtain ⟨-, hen', -, -, htx, hbusy', -⟩ := hostOp_frame op (begun s rest)
    rcases hostOp_phase_cases op (begun s rest) with e | ⟨-, hp' | hp', -⟩
    · exact ⟨⟨e.trans hp, hbusy'.trans hbusy, hen'.trans hen⟩, htx⟩
    all_goals exact absurd (hp.symm.trans hp') nofun
  | reset hscript => exact absurd hscript (hreset _)
  | _ => exact ⟨⟨hp, hbusy, hen⟩, rfl⟩

/-- A step without a rule answers a next state, and the script after it holds no action but its own and shorter waits. -/
theorem step_without_rule {s : State} (hrule : enabledRule s = none) :
    ∃ t, step s = .next t ∧ (∀ a ∈ t.script, a ∈ s.script ∨ ∃ n, a = .wait n) ∧
      (s.script = [] → t = tick (begun s [])) := by
  have taken {action : Action} {rest : List Action} {t : State} (hscript : s.script = action :: rest)
      (hstep : step s = .next t) (ht : t.script = rest) :
      ∃ t, step s = .next t ∧ (∀ a ∈ t.script, a ∈ s.script ∨ ∃ n, a = .wait n) ∧
        (s.script = [] → t = tick (begun s [])) :=
    ⟨t, hstep, fun a ha => .inl (hscript ▸ List.mem_cons_of_mem action (ht ▸ ha)), fun hnil => by simp [hscript] at hnil⟩
  cases hscript : s.script with
  | nil => exact ⟨_, step_of_empty_script hscript hrule, nofun, fun _ => rfl⟩
  | cons action rest =>
    rw [← hscript]
    cases action with
    | engine => exact taken hscript (step_of_idle_engine hscript hrule) rfl
    | wait n =>
      cases n with
      | zero => exact taken hscript (step_of_wait_zero hscript) rfl
      | succ n =>
        have hmay : mayTick s = true := by simp [mayTick, hrule]
        refine ⟨_, step_of_wait_tick hscript hmay, fun a ha => ?_, fun hnil => by simp [hscript] at hnil⟩
        rcases List.mem_cons.1 (show a ∈ Action.wait n :: rest from ha) with rfl | hrest
        · exact .inr ⟨n, rfl⟩
        · exact .inl (hscript ▸ List.mem_cons_of_mem _ hrest)
    | receive b => exact taken hscript (step_of_receive hscript) (by simp)
    | txDone => exact taken hscript (step_of_txDone hscript) rfl
    | host op =>
      obtain ⟨-, -, -, -, -, -, -, hop⟩ := hostOp_frame op (begun s rest)
      exact taken hscript (step_of_host hscript) hop
    | reset => exact taken hscript (step_of_reset hscript) rfl

/-- One step, then the others. -/
theorem run_succ_of_step {s t : State} (h : step s = .next t) (n : Nat) :
    Sys2Proof.core.run (n + 1) s = Sys2Proof.core.run n t := by
  have hcore : Sys2Proof.core.step s = .next t := h
  simp only [Host.Core.run, hcore]

/-- R158, U6: a script without the two actions leaves the engine transmitting, after any number of steps. -/
theorem Transmitting.run_keeps (n : Nat) {s : State} (h : Transmitting s)
    (hscript : ∀ a ∈ s.script, a ≠ .txDone ∧ a ≠ .reset) :
    ∃ t, Sys2Proof.core.run n s = .next t ∧ Transmitting t ∧ t.tx = s.tx ∧
      (s.script = [] → s.par.timeW = none → t.now = s.now + n) := by
  induction n generalizing s with
  | zero => exact ⟨s, rfl, h, rfl, fun _ _ => rfl⟩
  | succ n ih =>
    have ⟨hp, hbusy, _⟩ := h
    have hrule : enabledRule s = none := by rw [enabledRule_flush hp, if_pos hbusy]
    obtain ⟨t, hstep, hrest, hempty⟩ := step_without_rule hrule
    have hhead {a : Action} {rest : List Action} (hs : s.script = a :: rest) : a ≠ .txDone ∧ a ≠ .reset :=
      hscript a (hs ▸ List.mem_cons_self)
    obtain ⟨hkeeps, htx⟩ := h.step_keeps hstep (fun rest hs => (hhead hs).1 rfl) (fun rest hs => (hhead hs).2 rfl)
    have hscript' : ∀ a ∈ t.script, a ≠ .txDone ∧ a ≠ .reset := by
      intro a ha
      rcases hrest a ha with hold | ⟨m, rfl⟩
      · exact hscript a hold
      · exact ⟨nofun, nofun⟩
    obtain ⟨u, hrun, hu, hutx, hnow⟩ := ih hkeeps hscript'
    refine ⟨u, (run_succ_of_step hstep n).trans hrun, hu, hutx.trans htx, fun hnil hunbounded => ?_⟩
    obtain rfl := hempty hnil
    have htick : (tick (begun s [])).now = s.now + 1 := wrapTime_of_unbounded hunbounded _
    rw [hnow rfl hunbounded, htick]
    omega

/-- Settles O40: the invariant gives `tx_en`, and the engine keeps transmitting. -/
theorem unfinishedTransmissionHangsInFlush : Obligations.UnfinishedTransmissionHangsInFlush := by
  unfold Obligations.UnfinishedTransmissionHangsInFlush
  intro s hinv hp hbusy
  have h : Transmitting s := ⟨hp, hbusy, hinv.txEnable.2 hp⟩
  refine ⟨fun hdone hreset => ?step, fun hscript n => ?run⟩
  case step =>
    obtain ⟨t, hstep, -⟩ := step_without_rule (s := s) (by rw [enabledRule_flush hp, if_pos hbusy])
    obtain ⟨⟨hp', hbusy', hen'⟩, htx⟩ := h.step_keeps hstep hdone hreset
    exact ⟨t, hstep, hp', hbusy', hen', htx⟩
  case run =>
    obtain ⟨t, hrun, ⟨hp', hbusy', hen'⟩, htx, hnow⟩ := h.run_keeps n hscript
    exact ⟨t, hrun, hp', hbusy', hen', htx, hnow⟩

end Sys2Proof.Machine
end

section
/-! Runs with the empty script: the end of a quiet drain, the reception of a burst; and the wrapping timer. -/

namespace Sys2Proof.Machine

/-! ### The timer -/

/-- In a counter of period `m`, the difference of two wrapped instants is the interval, if that is shorter than the period. -/
theorem wrapped_difference {m mark interval : Nat} (h : interval < m) :
    ((mark + interval) % m + (m - mark % m % m)) % m = interval := by
  have hm : mark % m < m := Nat.mod_lt _ (by omega)
  rw [Nat.mod_mod, Nat.add_mod mark, Nat.mod_eq_of_lt h]
  rcases Nat.lt_or_ge (mark % m + interval) m with hlt | hge
  · rw [Nat.mod_eq_of_lt hlt, show mark % m + interval + (m - mark % m) = interval + m by omega, Nat.add_mod_right,
      Nat.mod_eq_of_lt h]
  · have hwrapped : (mark % m + interval) % m = mark % m + interval - m := by
      rw [Nat.mod_eq_sub_mod hge, Nat.mod_eq_of_lt (by omega)]
    rw [hwrapped, show mark % m + interval - m + (m - mark % m) = interval by omega, Nat.mod_eq_of_lt h]

/-- Settles O45: `elapsed` is the difference of two wrapped instants. -/
theorem wrappingTimerMeasuresShortIntervals : Obligations.WrappingTimerMeasuresShortIntervals := by
  unfold Obligations.WrappingTimerMeasuresShortIntervals
  intro s w mark interval h
  exact wrapped_difference h

/-- R18: a timer just restarted has measured nothing. -/
theorem elapsed_of_restarted {s : State} (hunbounded : s.par.timeW = none) (h : s.tMark = s.now) : elapsed s = 0 := by
  rw [elapsed_of_unbounded hunbounded, h, Nat.sub_self]

/-! ### The end of a quiet drain -/

/-- With the empty script an enabled rule is the engine's turn (log 5). -/
theorem turn_of_empty_script {s : State} (h : s.script = []) : EngineTurn s [] := .inr (.inl ⟨h, rfl⟩)

/-- R93, R153: a quiet drain with `n` microseconds to go ends in IDLE with the step after them. -/
theorem quiet_drain_run (n : Nat) {s : State} (hp : s.phase = .drain) (hq : s.rxq = []) (hscript : s.script = [])
    (hunbounded : s.par.timeW = none) (hmark : s.tMark ≤ s.now)
    (hleft : s.now + n = s.tMark + s.conf.frameTimeout.toNat) :
    ∃ t, Sys2Proof.core.run (n + 1) s = .next t ∧ t.phase = .idle ∧ t.now = s.tMark + s.conf.frameTimeout.toNat ∧
      t.rxq = [] ∧ t.conf = s.conf ∧ t.tx = s.tx ∧ t.store = s.store := by
  induction n generalizing s with
  | zero =>
    obtain ⟨-, hquiet, -⟩ := drainDiscardsUntilQuiet s [] hp (turn_of_empty_script hscript)
    have hstep := hquiet hq (by rw [elapsed_of_unbounded hunbounded]; omega)
    exact ⟨_, run_succ_of_step hstep 0, rfl, hleft, hq, rfl, rfl, rfl⟩
  | succ n ih =>
    obtain ⟨-, -, hwait⟩ := drainDiscardsUntilQuiet s [] hp (turn_of_empty_script hscript)
    have hrule := hwait hq (by rw [elapsed_of_unbounded hunbounded]; omega)
    have htick : (tick (begun s [])).now = s.now + 1 := wrapTime_of_unbounded hunbounded _
    obtain ⟨t, hrun, hafter⟩ := ih (s := tick (begun s [])) hp hq rfl hunbounded
      (by rw [htick, tick_tMark, begun_tMark]; omega)
      (by rw [htick, tick_tMark, begun_tMark, tick_conf, begun_conf]; omega)
    exact ⟨t, (run_succ_of_step (step_of_empty_script hscript hrule) (n + 1)).trans hrun, hafter⟩

/-- Settles O46, by the microseconds to go. -/
theorem quietLineEndsDrainAfterFrameTimeout : Obligations.QuietLineEndsDrainAfterFrameTimeout := by
  unfold Obligations.QuietLineEndsDrainAfterFrameTimeout
  intro s hp hq hscript hunbounded hmark hnow
  exact quiet_drain_run _ hp hq hscript hunbounded hmark (by omega)

/-! ### The reception of a burst -/

/-- R97: waiting bytes that fit are received one a step, at one instant, behind the bytes received before. -/
theorem burst_run (bytes : List Byte) {s : State} (hp : s.phase = .recv) (hq : s.rxq = bytes) (hscript : s.script = [])
    (hfit : s.len.toNat + bytes.length ≤ 256) (hunbounded : s.par.timeW = none)
    (htime : elapsed s ≤ s.conf.charTimeout.toNat) :
    ∃ t, Sys2Proof.core.run bytes.length s = .next t ∧ t.phase = .recv ∧ t.rxq = [] ∧
      t.len.toNat = s.len.toNat + bytes.length ∧ t.now = s.now ∧
      (∀ k, k < s.len.toNat → Memory.read t.buf k = Memory.read s.buf k) ∧
      ∀ k, k < bytes.length → Memory.read t.buf (s.len.toNat + k) = bytes[k]? := by
  induction bytes generalizing s with
  | nil => exact ⟨s, rfl, hp, hq, rfl, rfl, fun _ _ => rfl, nofun⟩
  | cons b bytes ih =>
    simp only [List.length_cons] at hfit
    obtain ⟨-, -, hbyte, -⟩ := recvTestsCapacityThenTimerThenByte s [] hp (turn_of_empty_script hscript)
    obtain ⟨buf, hstep, hlen, hnew, hold⟩ := hbyte (by omega) htime b bytes hq
    obtain ⟨t, hrun, hp', hq', hlen', hnow, hkept, hread⟩ := ih
      (s := { afterTurn s [] with buf := buf, rxq := bytes, len := s.len + 1#9, tMark := s.now }) hp rfl rfl
      (by rw [hlen]; omega) hunbounded (le_of_eq_of_le (elapsed_of_restarted (by exact hunbounded) rfl) (Nat.zero_le _))
    simp only [hlen] at hlen' hkept hread
    refine ⟨t, (run_succ_of_step hstep bytes.length).trans hrun, hp', hq', ?_, hnow, fun k hk => ?_, fun k hk => ?_⟩
    · rw [hlen', List.length_cons]
      omega
    · rw [hkept k (by omega)]
      exact hold k (by omega)
    · cases k with
      | zero => exact (hkept _ (by omega)).trans hnew
      | succ k =>
        rw [show s.len.toNat + (k + 1) = s.len.toNat + 1 + k by omega, hread k (by simpa using hk),
          List.getElem?_cons_succ]

/-- Settles O47: a burst that begins the frame. -/
theorem waitingBurstIsReceivedInOrder : Obligations.WaitingBurstIsReceivedInOrder := by
  unfold Obligations.WaitingBurstIsReceivedInOrder
  intro s bytes hp hlen hq hfit hscript hunbounded htime
  have hzero : s.len.toNat = 0 := by rw [hlen]; rfl
  obtain ⟨t, hrun, hp', hq', hlen', hnow, -, hread⟩ := burst_run bytes hp hq hscript (by omega) hunbounded htime
  simp only [hzero, Nat.zero_add] at hlen' hread
  exact ⟨t, hrun, hp', hq', hlen', hnow, hread⟩

end Sys2Proof.Machine
end

section
/-! Two machines side by side: a relation that every operation of the machine respects is respected by every step. -/

namespace Sys2Proof.Machine

/-! ### Related outcomes -/

/-- Outcomes that agree up to a relation of states: related next states, or the same stop. -/
def Related (R : State → State → Prop) : Result → Result → Prop
  | .next s, .next t => R s t
  | .fault a, .fault b => a = b
  | .refused a, .refused b => a = b
  | _, _ => False

/-- A function that respects the relation keeps outcomes related. -/
theorem Related.mapNext {R : State → State → Prop} {f : State → State} (hf : ∀ {s t : State}, R s t → R (f s) (f t))
    {a b : Result} (h : Related R a b) : Related R (mapNext f a) (mapNext f b) := by
  cases a with
  | next s =>
    cases b with
    | next t => exact hf h
    | fault | refused => exact h
  | fault f => cases b <;> exact h
  | refused f => cases b <;> exact h

/-- What is to be shown of a relation of states, so that steps respect it: related states have the same script and the same
enabled rule with the same wait, and each operation of each agent relates its results. -/
structure StepCongruence (R : State → State → Prop) : Prop where
  script {s t : State} : R s t → t.script = s.script
  rule {s t : State} : R s t → enabledRule t = enabledRule s
  wait {s t : State} : R s t → t.waited = s.waited ∧ t.par.stepLatency = s.par.stepLatency
  begun {s t : State} (rest : List Action) : R s t → R (begun s rest) (begun t rest)
  rearm {s t : State} : R s t → R (rearm s) (rearm t)
  settle {s t s' t' : State} : R s t → R s' t' → R (settle s s') (settle t t')
  tick {s t : State} : R s t → R (tick s) (tick t)
  receive {s t : State} (b : Byte) : R s t → R (lineAppend b s) (lineAppend b t)
  txDone {s t : State} : R s t → R (lineDone s) (lineDone t)
  host {s t : State} (op : HostOp) : R s t → R (hostOp op s) (hostOp op t)
  reset {s t : State} : R s t → R (engineReset s) (engineReset t)
  fire {s t : State} {r : Rule} : R s t → enabledRule s = some r → Related R (fire r s) (fire r t)

section
variable {R : State → State → Prop} (h : StepCongruence R) {s t : State} (hst : R s t)
include h hst

/-- Related states tick together (R7). -/
theorem StepCongruence.mayTick_eq : mayTick t = mayTick s := by
  obtain ⟨hwaited, hlatency⟩ := h.wait hst
  simp only [mayTick, h.rule hst, hwaited, hlatency]

/-- On the engine's turn both states take the step of the same rule. -/
theorem StepCongruence.turn {rest : List Action} {r : Rule} (hs : EngineTurn s rest) (ht : EngineTurn t rest)
    (hr : enabledRule s = some r) : Related R (step s) (step t) := by
  rw [step_of_turn hs hr, step_of_turn ht ((h.rule hst).trans hr)]
  exact (h.fire (h.begun rest hst) hr).mapNext h.rearm

/-- A relation that every operation respects is respected by every step. -/
theorem StepCongruence.step : Related R (step s) (step t) := by
  have hscript' := h.script hst
  cases hscript : s.script with
  | nil =>
    rw [hscript] at hscript'
    cases hrule : enabledRule s with
    | none =>
      rw [step_of_empty_script hscript hrule, step_of_empty_script hscript' ((h.rule hst).trans hrule)]
      exact h.tick (h.begun [] hst)
    | some r => exact h.turn hst (.inr (.inl ⟨hscript, rfl⟩)) (.inr (.inl ⟨hscript', rfl⟩)) hrule
  | cons action rest =>
    rw [hscript] at hscript'
    cases action with
    | engine =>
      cases hrule : enabledRule s with
      | none =>
        rw [step_of_idle_engine hscript hrule, step_of_idle_engine hscript' ((h.rule hst).trans hrule)]
        exact h.begun rest hst
      | some r => exact h.turn hst (.inl hscript) (.inl hscript') hrule
    | wait n =>
      cases n with
      | zero =>
        rw [step_of_wait_zero hscript, step_of_wait_zero hscript']
        exact h.begun rest hst
      | succ n =>
        by_cases hmay : mayTick s = true
        · rw [step_of_wait_tick hscript hmay, step_of_wait_tick hscript' ((h.mayTick_eq hst).trans hmay)]
          exact h.tick (h.begun _ hst)
        · have hrule : enabledRule s ≠ none := fun hnone => hmay (by simp [mayTick, hnone])
          obtain ⟨r, hr⟩ := Option.ne_none_iff_exists'.1 hrule
          have hmay' : ¬ mayTick t = true := by rwa [h.mayTick_eq hst]
          exact h.turn hst (.inr (.inr ⟨n, rest, hscript, latency_of_not_mayTick hmay, rfl⟩))
            (.inr (.inr ⟨n, rest, hscript', latency_of_not_mayTick hmay', (h.script hst).symm⟩)) hr
    | receive b =>
      rw [step_of_receive hscript, step_of_receive hscript']
      exact h.settle hst (h.receive b (h.begun rest hst))
    | txDone =>
      rw [step_of_txDone hscript, step_of_txDone hscript']
      exact h.settle hst (h.txDone (h.begun rest hst))
    | host op =>
      rw [step_of_host hscript, step_of_host hscript']
      exact h.settle hst (h.host op (h.begun rest hst))
    | reset =>
      rw [step_of_reset hscript, step_of_reset hscript']
      exact h.reset (h.begun rest hst)

end

/-- States chosen by equivalent conditions. -/
theorem related_ite {R : State → State → Prop} {c c' : Prop} [Decidable c] [Decidable c'] {x y x' y' : State} (hc : c' ↔ c)
    (hthen : c → R x x') (helse : R y y') : R (if c then x else y) (if c' then x' else y') := by
  by_cases h : c
  · rw [if_pos h, if_pos (hc.2 h)]
    exact hthen h
  · rw [if_neg h, if_neg (mt hc.1 h)]
    exact helse

/-! ### The outcome of a request, by its cells -/

/-- The regions after the access of a write, if the host provided every cell of it (R135 to R138). -/
def writtenStore (i : Instr) (store : Store) : Option Store :=
  match i with
  | .wsc _ b => (Memory.storeN store.coils b.start.toNat [b.field2 == 0xFF00#16]).map fun m => { store with coils := m }
  | .wsr _ b => (Memory.storeN store.hr b.start.toNat [b.field2]).map fun m => { store with hr := m }
  | .wmc _ b => (Memory.storeN store.coils b.start.toNat (unpackBits b.qty.toNat b.data)).map fun m => { store with coils := m }
  | .wmr _ b => (Memory.storeN store.hr b.start.toNat (unpackWords b.qty.toNat b.data)).map fun m => { store with hr := m }
  | _ => none

/-- R135 to R138: the access of a write echoes, with the regions it leaves. -/
theorem requestAccess_of_not_isRead {i : Instr} (hread : i.isRead = false) (s u : State) :
    requestAccess i s u = (writtenStore i u.store).map fun store => echoResponse { u with store := store } := by
  cases i with
  | rc | rdi | rhr | rir => cases hread
  | illegal => rfl
  | wsc id b | wmc id b => simp only [requestAccess, writeCoils, writtenStore, Option.map_map, Function.comp_def]
  | wsr id b | wmr id b => simp only [requestAccess, writeRegisters, writtenStore, Option.map_map, Function.comp_def]

/-- One request in two states with the same regions and descriptors has the same exception or the same data or leaves the same
regions, so its outcomes are related when the three states a dispatch can leave are. -/
theorem related_exec {R : State → State → Prop} {i : Instr} {s t : State}
    (hdescriptor : ∀ sp, descriptor t sp = descriptor s sp) (hstore : t.store = s.store)
    (hraised : ∀ c, R (raised i c s) (raised i c t))
    (hcompleted : ∀ data, R (completedRead i data s) (completedRead i data t))
    (hwritten : requestShape i = true → ∀ store, R (completedWrite i store s) (completedWrite i store t)) :
    Related R (exec i s) (exec i t) := by
  cases hsp : i.space? with
  | none =>
    cases i with
    | illegal id fc p => exact hraised .illegalFunction
    | _ => cases hsp
  | some sp =>
    have hpresent : regionPresent t sp = regionPresent s sp := by simp only [regionPresent, regionLen, hdescriptor]
    have hlen : regionLen t sp = regionLen s sp := by simp only [regionLen, hdescriptor]
    rw [exec_eq i sp s hsp, exec_eq i sp t hsp, hpresent, hlen]
    cases hcheck : firstFailure (regionPresent s sp) (requestShape i) (rangeOk i.start i.qty (regionLen s sp)) with
    | some c => exact hraised c
    | none =>
      obtain ⟨-, hshape, -⟩ := (firstFailure_none_iff _ _ _).1 hcheck
      cases hread : i.isRead with
      | true =>
        rw [requestAccess_of_isRead hread, requestAccess_of_isRead hread, hstore]
        cases readData i s.store with
        | some data => exact hcompleted data
        | none => exact rfl
      | false =>
        have hstart : (startAccess i t).store = (startAccess i s).store := hstore
        rw [requestAccess_of_not_isRead hread, requestAccess_of_not_isRead hread, hstart]
        cases writtenStore i (startAccess i s).store with
        | some store => exact hwritten hshape store
        | none => exact rfl

/-! ### The rules that read the buffer -/

section
variable {R : State → State → Prop} {s t : State}

/-- R100: VALIDATE in two states that hold the same frame and accept the same frames. -/
theorem related_validateStep (hquiet : t.quietOk = s.quietOk) (hlen : t.len = s.len)
    (hread : readBuf t s.len.toNat = readBuf s s.len.toNat) (hmatch : ∀ frame, frameMatches t frame = frameMatches s frame)
    (haccept : R (acceptFrame s) (acceptFrame t)) (hreject : R (rejectFrame s) (rejectFrame t)) :
    Related R (validateStep s) (validateStep t) := by
  simp only [validateStep, hquiet, hlen, hread, hmatch]
  split
  · cases readBuf s s.len.toNat with
    | error f => exact rfl
    | ok frame =>
      change R _ _
      split
      · exact haccept
      · exact hreject
  · exact hreject

/-- R110: DISPATCH in two states that hold the same frame. -/
theorem related_dispatchStep (hlen : t.len = s.len) (hread : readBuf t s.len.toNat = readBuf s s.len.toNat)
    (hexec : ∀ frame i, readBuf s s.len.toNat = .ok frame → decode frame = .ok i → Related R (exec i s) (exec i t)) :
    Related R (dispatchStep s) (dispatchStep t) := by
  simp only [dispatchStep, fetchFrame, hlen, hread]
  cases hframe : readBuf s s.len.toNat with
  | error f => exact rfl
  | ok frame =>
    cases hdecode : decode frame with
    | ok i => simpa only [hdecode] using hexec frame i hframe hdecode
    | error e => cases e <;> simp only [hdecode] <;> exact rfl

/-- R147: EMIT in two states that hold the same response. -/
theorem related_emitStep (hlen : t.respLen = s.respLen) (hread : readBuf t s.respLen.toNat = readBuf s s.respLen.toNat)
    (hemit : ∀ body, R
      { transmit (sign body) (writeBuf s.respLen.toNat (crcField body) s) with txEn := true, phase := .flush }
      { transmit (sign body) (writeBuf s.respLen.toNat (crcField body) t) with txEn := true, phase := .flush }) :
    Related R (emitStep s) (emitStep t) := by
  simp only [emitStep, hlen, hread]
  split
  · exact rfl
  · cases readBuf s s.respLen.toNat with
    | error f => exact rfl
    | ok body => exact hemit body

end

end Sys2Proof.Machine
end

section
/-! The transmit-enable line: no step reads whether it is there. -/

namespace Sys2Proof.Machine

/-- R157: the state of an engine that differs in its line alone. -/
def SameButLine (present : Bool) (s t : State) : Prop := t = withTxEnLine present s

/-- R156: no rule's effect depends on the line. -/
theorem fire_sameButLine (present : Bool) (r : Rule) (s : State) :
    Related (SameButLine present) (fire r s) (fire r (withTxEnLine present s)) := by
  cases r with
  | drainDiscard =>
    change drainDiscard (withTxEnLine present s) = withTxEnLine present (drainDiscard s)
    cases hq : s.rxq <;> simp [drainDiscard, withTxEnLine, hq]
  | recvByte =>
    change recvByte (withTxEnLine present s) = withTxEnLine present (recvByte s)
    cases hq : s.rxq with
    | nil => simp [recvByte, withTxEnLine, hq]
    | cons b q => rw [recvByte_of_cons hq, recvByte_of_cons (s := withTxEnLine present s) hq]; rfl
  | validate => exact related_validateStep rfl rfl rfl (fun _ => rfl) rfl rfl
  | dispatch =>
    exact related_dispatchStep rfl rfl fun _ i _ _ =>
      related_exec (fun sp => descriptor_congr rfl sp) rfl (fun _ => rfl) (fun _ => rfl) (fun _ _ => rfl)
  | emit => exact related_emitStep rfl rfl fun _ => rfl
  | _ => exact rfl

/-- R156: every operation of every agent respects the line. -/
theorem stepCongruence_sameButLine (present : Bool) : StepCongruence (SameButLine present) where
  script := by rintro s t rfl; rfl
  rule := by rintro s t rfl; rfl
  wait := by rintro s t rfl; exact ⟨rfl, rfl⟩
  begun := by rintro s t rest rfl; rfl
  rearm := by rintro s t rfl; rfl
  settle := by rintro s t s' t' rfl rfl; rfl
  tick := by rintro s t rfl; rfl
  receive := by
    rintro s t b rfl
    rw [SameButLine, lineAppend_eq, lineAppend_eq]
    rfl
  txDone := by rintro s t rfl; rfl
  host := by
    rintro s t op rfl
    cases op with
    | init id baud parity stop2 =>
      have hassign : SameButLine present (assignAddress id s) (assignAddress id (withTxEnLine present s)) :=
        related_ite Iff.rfl (fun _ => rfl) rfl
      refine related_ite (R := SameButLine present) Iff.rfl (fun _ => ?_) rfl
      rw [hassign]
      rfl
    | cfgCoils | cfgDi | cfgHr | cfgIr => exact related_ite (R := SameButLine present) Iff.rfl (fun _ => rfl) rfl
    | _ => rfl
  reset := by rintro s t rfl; rfl
  fire := by
    rintro s t r rfl -
    exact fire_sameButLine present r s

/-- Outcomes related by the line are those of the state with the line set. -/
theorem eq_mapNext_of_related {present : Bool} {a b : Result} (h : Related (SameButLine present) a b) :
    b = mapNext (withTxEnLine present) a := by
  cases a with
  | next s =>
    cases b with
    | next t => exact congrArg Host.Outcome.next h
    | fault | refused => exact h.elim
  | fault f =>
    cases b with
    | fault g => exact congrArg Host.Outcome.fault (Eq.symm h)
    | next | refused => exact h.elim
  | refused f =>
    cases b with
    | refused g => exact congrArg Host.Outcome.refused (Eq.symm h)
    | next | fault => exact h.elim

/-- Settles O59: what the line shows, and that no step reads it. -/
theorem transmitEnableLineIsDrivenOnlyIfPresent : Obligations.TransmitEnableLineIsDrivenOnlyIfPresent := by
  unfold Obligations.TransmitEnableLineIsDrivenOnlyIfPresent
  intro s present
  have hline : txEnLine (withTxEnLine present s) = if present = true then some s.txEn else none := rfl
  refine ⟨hline, fun h hpresent => ?high, ?step⟩
  case high =>
    rw [hline, if_pos hpresent, Option.some_inj]
    exact h.txEnable
  case step => exact eq_mapNext_of_related ((stepCongruence_sameButLine present).step rfl)

end Sys2Proof.Machine
end

section
/-! Values no rule reads before writing them: `SameLive` is respected by every operation of every agent. -/

namespace Sys2Proof.Machine

section
variable {s t : State} (h : SameLive s t)
include h

/-! ### What a rule can read -/

/-- The descriptors agree. -/
theorem SameLive.descriptor_eq (sp : Space) : descriptor t sp = descriptor s sp := by
  cases sp with
  | coils => exact h.coils.symm
  | di => exact h.di.symm
  | hr => exact h.hr.symm
  | ir => exact h.ir.symm

/-- In the phases that read the timer it has measured the same. -/
theorem SameLive.elapsed_eq (hp : s.phase = .drain ∨ s.phase = .recv ∨ s.phase = .quiet) : elapsed t = elapsed s := by
  simp only [elapsed, h.par, h.now, h.timer hp]

/-- The guard that holds is the same. -/
theorem SameLive.enabledRule_eq : enabledRule t = enabledRule s := by
  have hphase := h.phase
  simp only [enabledRule, bytesAvailable, ← h.rxq, ← h.txBusy, ← hphase]
  cases hp : s.phase with
  | drain =>
    obtain ⟨-, hframe⟩ := h.timeouts (by simp [hp])
    rw [h.elapsed_eq (.inl hp), hframe]
    rfl
  | recv =>
    obtain ⟨hchar, -⟩ := h.timeouts (by simp [hp])
    obtain ⟨hlen, -⟩ := h.frame (by simp [hp, Phase.holdsFrame])
    rw [h.elapsed_eq (.inr (.inl hp)), hchar, hlen]
    rfl
  | quiet =>
    obtain ⟨-, hframe⟩ := h.timeouts (by simp [hp])
    rw [h.elapsed_eq (.inr (.inr hp)), hframe]
  | unconf | idle | validate | dispatch | emit | flush => rfl

/-- R102, R103: the same frames match. -/
theorem SameLive.frameMatches_eq (frame : List Byte) : frameMatches t frame = frameMatches s frame := by
  have haddress : addressMatches t (frame.getD 0 0) = addressMatches s (frame.getD 0 0) := by
    cases hassigned : s.conf.idAssigned with
    | false => simp only [addressMatches, ← h.assigned, hassigned, Bool.false_and]
    | true => simp only [addressMatches, ← h.assigned, h.station hassigned]
  simp only [frameMatches, haddress]

/-- The received frame reads the same (R36). -/
theorem SameLive.readFrame_eq (hp : s.phase.holdsFrame = true) : readBuf t s.len.toNat = readBuf s s.len.toNat := by
  obtain ⟨-, hbytes⟩ := h.frame hp
  exact (readBuf_congr hbytes).symm

/-! ### The other agents -/

theorem SameLive.begun (rest : List Action) : SameLive (begun s rest) (begun t rest) :=
  { h with
    res := congrArg (fun r : ResRegs => { r with valid := false }) h.res
    script := rfl }

theorem SameLive.rearm : SameLive (rearm s) (rearm t) := { h with waited := rfl }

theorem SameLive.settle {s' t' : State} (h' : SameLive s' t') : SameLive (settle s s') (settle t t') :=
  { h' with
    waited := by
      simp only [Machine.settle, h.enabledRule_eq, h'.enabledRule_eq, h'.waited] }

theorem SameLive.tick : SameLive (tick s) (tick t) := by
  refine h.settle ?_
  exact { h with
    now := by simp only [advance_now, h.par, h.now]
    waited := by simp only [h.enabledRule_eq, h.waited] }

theorem SameLive.lineAppend (b : Byte) : SameLive (lineAppend b s) (lineAppend b t) := by
  rw [lineAppend_eq, lineAppend_eq]
  exact { h with rxq := by simp only [h.par, h.rxq] }

theorem SameLive.lineDone : SameLive (lineDone s) (lineDone t) := { h with txBusy := rfl }

/-- R190: reset writes every engine register. -/
theorem SameLive.engineReset : SameLive (engineReset s) (engineReset t) where
  par := h.par
  phase := rfl
  assigned := rfl
  station := fun _ => rfl
  coils := rfl
  di := rfl
  hr := rfl
  ir := rfl
  timeouts := fun _ => ⟨rfl, rfl⟩
  timer := fun _ => rfl
  frame := fun _ => ⟨rfl, fun _ _ => rfl⟩
  quiet := fun _ => rfl
  response := fun _ => ⟨rfl, fun _ _ => rfl⟩
  txEn := rfl
  res := rfl
  store := h.store
  rxq := h.rxq
  tx := h.tx
  txBusy := h.txBusy
  now := h.now
  script := h.script
  waited := rfl
  free := h.free

/-! ### The host -/

theorem SameLive.hostReady_iff : hostReady t = true ↔ hostReady s = true := by
  simp only [hostReady, h.phase]

/-- R160: the same address, or the same free value. -/
theorem SameLive.assignAddress (id : Byte) : SameLive (assignAddress id s) (assignAddress id t) :=
  related_ite Iff.rfl (fun _ => { h with assigned := rfl, station := fun _ => rfl })
    { h with assigned := rfl, station := nofun, free := congrArg (· + 1) h.free }

/-- R159, R161: INIT writes the timeouts and the timer's mark before DRAIN reads them. -/
theorem SameLive.init (baud : BitVec 32) (parity : Parity) (stop2 : Bool) :
    SameLive (startDrain (setTimeouts baud parity stop2 s)) (startDrain (setTimeouts baud parity stop2 t)) :=
  { h with
    phase := rfl
    timeouts := fun _ => ⟨rfl, rfl⟩
    timer := fun _ => h.now
    frame := nofun
    quiet := nofun
    response := nofun }

theorem SameLive.hostOp (op : HostOp) : SameLive (hostOp op s) (hostOp op t) := by
  cases op with
  | init id baud parity stop2 =>
    have hready : (hostReady t && decide (0 < baud.toNat)) = true ↔ (hostReady s && decide (0 < baud.toNat)) = true := by
      rw [Bool.and_eq_true, Bool.and_eq_true, h.hostReady_iff]
    exact related_ite hready (fun _ => (h.assignAddress id).init baud parity stop2) h
  | cfgCoils n cells =>
    exact related_ite h.hostReady_iff (fun _ => { h with
      coils := rfl, store := congrArg (fun store : Store => { store with coils := Memory.ofArray cells }) h.store }) h
  | cfgDi n cells =>
    exact related_ite h.hostReady_iff (fun _ => { h with
      di := rfl, store := congrArg (fun store : Store => { store with di := Memory.ofArray cells }) h.store }) h
  | cfgHr n cells =>
    exact related_ite h.hostReady_iff (fun _ => { h with
      hr := rfl, store := congrArg (fun store : Store => { store with hr := Memory.ofArray cells }) h.store }) h
  | cfgIr n cells =>
    exact related_ite h.hostReady_iff (fun _ => { h with
      ir := rfl, store := congrArg (fun store : Store => { store with ir := Memory.ofArray cells }) h.store }) h
  | writeCoil a v =>
    exact { h with store := congrArg (fun store : Store => { store with coils := Memory.write store.coils a.toNat v }) h.store }
  | writeDi a v =>
    exact { h with store := congrArg (fun store : Store => { store with di := Memory.write store.di a.toNat v }) h.store }
  | writeHr a v =>
    exact { h with store := congrArg (fun store : Store => { store with hr := Memory.write store.hr a.toNat v }) h.store }
  | writeIr a v =>
    exact { h with store := congrArg (fun store : Store => { store with ir := Memory.write store.ir a.toNat v }) h.store }
  | readCell sp a => exact h

end

/-! ### The engine -/

section
variable {s t : State} (h : SameLive s t)
include h

/-- A phase is entered together, with what its rules read. -/
theorem SameLive.toPhase {p : Phase} (hunconf : s.phase ≠ .unconf)
    (htimer : p = .drain ∨ p = .recv ∨ p = .quiet → s.tMark = t.tMark)
    (hframe : p.holdsFrame = true → s.len = t.len ∧ ∀ k, k < s.len.toNat → Memory.read s.buf k = Memory.read t.buf k)
    (hquiet : p = .validate → s.quietOk = t.quietOk)
    (hresponse : p = .emit →
      s.respLen = t.respLen ∧ ∀ k, k < s.respLen.toNat → Memory.read s.buf k = Memory.read t.buf k) :
    SameLive { s with phase := p } { t with phase := p } :=
  { h with
    phase := rfl
    timeouts := fun _ => h.timeouts hunconf
    timer := htimer
    frame := hframe
    quiet := hquiet
    response := hresponse }

/-- R97: the appended byte is read together with those before it. -/
theorem SameLive.recvByte {b : Byte} {q : List Byte} (hp : s.phase = .recv) (hcap : s.len.toNat < 256) (hq : s.rxq = b :: q) :
    SameLive (recvByte s) (recvByte t) := by
  obtain ⟨hlen, hbytes⟩ := h.frame (by simp [hp, Phase.holdsFrame])
  rw [recvByte_of_cons hq, recvByte_of_cons (h.rxq ▸ hq), ← hlen]
  exact { h with
    timer := fun _ => h.now
    frame := fun _ => by
      refine ⟨rfl, fun k hk => ?_⟩
      have hk : k < s.len.toNat + 1 := (toNat_succ_of_lt_capacity hcap) ▸ hk
      rw [Memory.read_write, Memory.read_write]
      split
      · rfl
      · exact hbytes k (by omega)
    response := fun e => by simp [hp] at e
    rxq := rfl }

/-- R100, R104, R105: the same frame is accepted or rejected. -/
theorem SameLive.validateStep (hp : s.phase = .validate) : Related SameLive (validateStep s) (validateStep t) := by
  have hframe := h.frame (by simp [hp, Phase.holdsFrame])
  refine related_validateStep (h.quiet hp).symm hframe.1.symm (h.readFrame_eq (by simp [hp, Phase.holdsFrame]))
    h.frameMatches_eq ?accept ?reject
  case accept => exact h.toPhase (by simp [hp]) nofun (fun _ => hframe) nofun nofun
  case reject =>
    have hreported : SameLive (outcome 0#8 0#3 0#16 0#16 s) (outcome 0#8 0#3 0#16 0#16 t) := { h with res := rfl }
    exact hreported.toPhase (by simp [hp]) nofun nofun nofun nofun

/-- R147 to R150: the same response is signed; what FLUSH leaves in the buffer is not read. -/
theorem SameLive.emitStep (hp : s.phase = .emit) : Related SameLive (emitStep s) (emitStep t) := by
  obtain ⟨hlen, hbytes⟩ := h.response hp
  refine related_emitStep hlen.symm (readBuf_congr hbytes).symm fun body => ?_
  rw [transmit_sign, transmit_sign]
  exact { h with
    phase := rfl
    timeouts := fun _ => h.timeouts (by simp [hp])
    timer := nofun
    frame := nofun
    quiet := nofun
    response := nofun
    txEn := rfl
    tx := congrArg (· ++ sign body) h.tx
    txBusy := rfl }

/-- R110 to R124: two dispatches with the same latches, report and regions agree, if they agree on the response. -/
theorem SameLive.dispatched (hunconf : s.phase ≠ .unconf) {p : Phase} (hp : p = .idle ∨ p = .emit) (req : ReqRegs)
    (exc : BitVec 3) (res : ResRegs) (respLen : BitVec 9) {store store' : Store} {buf buf' : List Host.Cell}
    (hstore : store = store') (hbuf : ∀ k, k < respLen.toNat → Memory.read buf k = Memory.read buf' k) :
    SameLive
      { s with phase := p, req := req, exc := exc, res := res, respLen := respLen, store := store, buf := buf }
      { t with phase := p, req := req, exc := exc, res := res, respLen := respLen, store := store', buf := buf' } :=
  { h with
    phase := rfl
    timeouts := fun _ => h.timeouts hunconf
    timer := fun e => by rcases hp with rfl | rfl <;> simp at e
    frame := fun e => by rcases hp with rfl | rfl <;> simp [Phase.holdsFrame] at e
    quiet := fun e => by rcases hp with rfl | rfl <;> simp at e
    response := fun _ => ⟨rfl, hbuf⟩
    res := rfl
    store := hstore }

/-- R110: the same request is run, and its response is of the frame's bytes and new ones. -/
theorem SameLive.dispatchStep (hp : s.phase = .dispatch) : Related SameLive (dispatchStep s) (dispatchStep t) := by
  have hholds : s.phase.holdsFrame = true := by simp [hp, Phase.holdsFrame]
  have hunconf : s.phase ≠ .unconf := by simp [hp]
  obtain ⟨hlen, hbytes⟩ := h.frame hholds
  refine related_dispatchStep hlen.symm (h.readFrame_eq hholds) fun frame i hread hdecode => ?_
  obtain ⟨-, hframe, -⟩ := (readBuf_ok_iff _ _ _).1 hread
  obtain ⟨-, hfour, hsix⟩ := decoded_frame hdecode
  have hnext := ite_eq_or_eq (i.id = 0#8) Phase.idle Phase.emit
  have hwrite (a : Nat) (bytes : List Byte) (ha : a ≤ 4) (k : Nat) (hk : k < a + bytes.length) :
      Memory.read (Memory.writeN s.buf a bytes) k = Memory.read (Memory.writeN t.buf a bytes) k :=
    Memory.read_writeN_congr (fun j hj => hbytes j (by omega)) hk
  refine related_exec h.descriptor_eq h.store.symm (fun c => ?raised) (fun data => ?completed) (fun hshape store => ?written)
  case raised =>
    exact h.dispatched hunconf hnext _ _ _ 3#9 h.store (hwrite 1 [i.fc ||| 0x80#8, c.code.setWidth 8] (by decide))
  case completed =>
    have hresponse : (BitVec.ofNat 9 (3 + data.length)).toNat ≤ 3 + data.length := Nat.mod_le _ _
    exact h.dispatched hunconf hnext _ _ _ (BitVec.ofNat 9 (3 + data.length)) h.store fun k hk =>
      hwrite 2 (BitVec.ofNat 8 data.length :: data) (by decide) k (by simp only [List.length_cons]; omega)
  case written =>
    have hsix := hsix hshape
    exact h.dispatched hunconf hnext _ _ _ 6#9 rfl fun k (hk : k < 6) => hbytes k (by omega)

/-- Every rule does the same. -/
theorem SameLive.fire {r : Rule} (hr : enabledRule s = some r) : Related SameLive (fire r s) (fire r t) := by
  have hphase := phase_of_enabledRule hr
  cases r with
  | drainDiscard =>
    obtain ⟨-, b, q, hq⟩ := guard_of_drainDiscard hr
    change SameLive (drainDiscard s) (drainDiscard t)
    rw [drainDiscard_of_cons hq, drainDiscard_of_cons (h.rxq ▸ hq)]
    exact { h with timer := fun _ => h.now, rxq := rfl }
  | drainQuiet =>
    have hp : s.phase = .drain := by simpa using hphase
    exact h.toPhase (by simp [hp]) nofun nofun nofun nofun
  | idleStart =>
    have hp : s.phase = .idle := by simpa using hphase
    exact { h with
      phase := rfl
      timeouts := fun _ => h.timeouts (by simp [hp])
      timer := fun _ => h.now
      frame := fun _ => ⟨rfl, fun k hk => absurd hk (Nat.not_lt_zero k)⟩
      quiet := nofun
      response := nofun }
  | recvFull | recvExpire =>
    have hp : s.phase = .recv := by simpa using hphase
    exact h.toPhase (by simp [hp]) (fun _ => h.timer (.inr (.inl hp))) (fun _ => h.frame (by simp [hp, Phase.holdsFrame])) nofun
      nofun
  | recvByte =>
    obtain ⟨hp, hcap, b, q, hq⟩ := guard_of_recvByte hr
    exact h.recvByte hp hcap hq
  | quietEnd =>
    have hp : s.phase = .quiet := by simpa using hphase
    exact { h with
      phase := rfl
      timeouts := fun _ => h.timeouts (by simp [hp])
      timer := nofun
      frame := fun _ => h.frame (by simp [hp, Phase.holdsFrame])
      quiet := fun _ => by simp only [quietEnd_quietOk, quietFlag, bytesAvailable, h.rxq]
      response := nofun }
  | validate => exact h.validateStep (by simpa using hphase)
  | dispatch => exact h.dispatchStep (by simpa using hphase)
  | emit => exact h.emitStep (by simpa using hphase)
  | flushDone =>
    have hp : s.phase = .flush := by simpa using hphase
    exact { h with
      phase := rfl
      timeouts := fun _ => h.timeouts (by simp [hp])
      timer := fun _ => h.now
      frame := nofun
      quiet := nofun
      response := nofun
      txEn := rfl }

end

/-- Every operation of every agent respects `SameLive`. -/
theorem stepCongruence_sameLive : StepCongruence SameLive where
  script h := h.script.symm
  rule h := h.enabledRule_eq
  wait h := ⟨h.waited.symm, congrArg Config.Params.stepLatency h.par.symm⟩
  begun rest h := h.begun rest
  rearm h := h.rearm
  settle h h' := h.settle h'
  tick h := h.tick
  receive b h := h.lineAppend b
  txDone h := h.lineDone
  host op h := h.hostOp op
  reset h := h.engineReset
  fire h hr := h.fire hr

/-- `SameOutcome` is agreement of outcomes up to `SameLive`. -/
theorem sameOutcome_iff_related (a b : Result) : SameOutcome a b ↔ Related SameLive a b := by
  cases a <;> cases b <;> exact Iff.rfl

/-- Settles O55: every step respects `SameLive`. -/
theorem unspecifiedValuesAreNeverObserved : Obligations.UnspecifiedValuesAreNeverObserved := by
  unfold Obligations.UnspecifiedValuesAreNeverObserved
  intro s t h
  exact (sameOutcome_iff_related _ _).2 (stepCongruence_sameLive.step h)

end Sys2Proof.Machine
end
